-- ==== Sys2Proof/Word.lean ====
section
/-!
DEFINITION. The word types of the TFC-62 (00_scope.md section 5): what the manual counts modulo a power of two,
or sends and receives as bits. Everything else (heights, weights, scores, counts) is a plain number.
-/
namespace Sys2Proof

/-- One byte of a frame payload or of a robot-port record. -/
abbrev Byte := BitVec 8

/-- A case tag (00_scope.md section 7). -/
abbrev Tag := BitVec 16

/-- A belt position or a distance along the belt, in encoder counts (00_scope.md section 5: wraps). -/
abbrev Count := BitVec 16

/-- A reading of the millisecond time base (00_scope.md section 5: 32-bit, wraps). -/
abbrev Millis := BitVec 32

end Sys2Proof
end

