-- ==== Sys2Proof/Syntax.lean ====
section
/-!
DEFINITION. The commands of the TFC-62: one constructor for each row of spec/opcode_table.json, in the table's order,
with the operands that the event brings with it. The table gives the rows no bits.
-/
namespace Sys2Proof

/-- A depot-line frame: 11-bit identifier and payload (00_scope.md section 2, 12 section 12.1). -/
structure Frame where
  ident : BitVec 11
  payload : List Byte
  deriving DecidableEq, Repr

/-- The commands. A command that takes a raised position event names the case tag of its owner's record or entry.
A command that the receive buffer hands on has no operand: it takes the oldest frame of the buffer (R5; log entry 6).
The operand own of FRAME_RECEPTION says from whose transmission the frame comes, this station's or another node's, which
its contents do not tell (R162; log entry 35).
A robot-port record comes with its sequence byte, its payload and its check byte: the command is the event that the
receiver has assembled it (log entry 7). -/
inductive Instr where
  | powerOn (straps : BitVec 4)
  | reset (straps : BitVec 4)
  | encoderPulse
  | sendDeadline (tag : Tag)
  | closePoint (tag : Tag)
  | eyeWindowEnd (tag : Tag)
  | pickOpenPoint (tag : Tag)
  | pickClosePoint (tag : Tag)
  | eyeEdge
  | eyeCapture
  | frameReception (frame : Frame) (own : Bool)
  | caseNotice
  | claim
  | miss
  | orderOpen
  | orderLines
  | orderCancel
  | buildResume
  | buildRelease
  | clearPrepare
  | clear
  | statusQuery
  | faultQuery
  | rollCall
  | lineSetup
  | stationSetup1
  | stationSetup2
  | arbitration (won : Bool)
  | transmissionComplete
  | transmissionFailure
  | placeDone (seq : Byte) (payload : List Byte) (check : Byte)
  | scanData (seq : Byte) (payload : List Byte) (check : Byte)
  | swapDone (seq : Byte) (payload : List Byte) (check : Byte)
  | robotState (seq : Byte) (payload : List Byte) (check : Byte)
  | interByteTimeout (got : List Byte)
  | placeExpiry
  | scanTimeout
  | swapTimeout
  | pauseTimerExpiry
  | sweepOffer
  | runBeaconBlink
  | recordDiscarded (kind : Byte) (seq : Byte) (payload : List Byte) (check : Byte)
  | recordAbandoned (kind : Byte) (seq : Byte) (length : Byte)
  | replyReportHelloReady
  deriving DecidableEq, Repr

end Sys2Proof
end

