-- ==== Sys2Proof/Config.lean ====
section
/-!
DEFINITION. What the part fixes and the manual gives no value for: constants with no body, so that nothing can be
proved of the value. Log entries 8, 9 and 10.
-/
namespace Sys2Proof

/-- The revision number that HELLO carries (R156); the manual gives no value (log entry 8). -/
opaque Config.revision : Byte

/-- The serial number that HELLO carries, fixed in each part at manufacture (R156); log entry 8. -/
opaque Config.serialNumber : BitVec 32

/-- The case tag bytes of a FAULT REPORT whose tag is absent: 12 section 12.4 gives them no value (log entry 9). -/
opaque Config.absentTag : Tag

/-- The next line index in the REPLY to an ORDER LINES whose build field names neither build: R46 gives the index of
a build, and there is none (log entry 10). -/
opaque Config.indexOfNoBuild : Byte

end Sys2Proof
end

