-- ==== Sys2Proof/Machine/State.lean ====
section
/-!
DEFINITION. Everything the spec gives the TFC-62 to hold, as plain data, block by block (00_scope.md section 3), and
the state after power-on. INVENTORY.md lists each field with its rule and its reset value.
-/
namespace Sys2Proof.Machine

/-- No rule of the spec stops the part, so no command of this model ends in a fault: the type has one constructor,
which nothing raises. -/
inductive Fault where
  /-- Raised by nothing; safe: it stands here so that the type is not empty. -/
  | neverRaised
  deriving DecidableEq, Repr

/-- The refusals of the model. -/
inductive Refusal where
  /-- Raised by an arm of exec whose command has no meaning yet; safe: the run stops. No arm raises it. -/
  | notModelled (mnemonic : String)
  deriving DecidableEq, Repr

/-- The two pallet positions of a station (03 section 3.1). -/
inductive BuildId where
  | A
  | B
  deriving DecidableEq, Repr

/-- The station states (10 section 10.1). -/
inductive StationState where
  | awaitConfig
  | run
  | paused
  | stalled
  | silent
  deriving DecidableEq, Repr

/-! ### Line interface -/

/-- The reasons of a MISS frame (R35). -/
inductive MissReason where
  | lapsed
  | absent
  | forfeit
  | withdrawn
  | notPicked
  | cancelled
  deriving DecidableEq, Repr

/-- The reply codes 0 to 8 (03 section 3.2). -/
inductive ReplyCode where
  | accepted
  | notUsed
  | busy
  | data
  | sequence
  | locked
  | notReady
  | noOrder
  | noPrepare
  deriving DecidableEq, Repr

/-- The build states (03 section 3.1); opened is OPEN. -/
inductive BuildState where
  | unused
  | empty
  | loading
  | opened
  | held
  | closing
  | swapping
  deriving DecidableEq, Repr

/-- The severities of a fault (11 section 11.1). -/
inductive Severity where
  | attn
  | stop
  deriving DecidableEq, Repr

/-- The eight causes of a fault (11 section 11.1). -/
inductive FaultCause where
  | placeTimeout
  | verifyMismatch
  | scanTimeout
  | swapTimeout
  | overload
  | pause
  | stall
  | duplicateNumber
  deriving DecidableEq, Repr

/-- The fault record (R166). -/
structure FaultRecord where
  valid : Bool
  overflow : Bool
  severity : Severity
  cause : Option FaultCause
  build : Option BuildId
  tag : Option Tag
  belt : Count
  time : Millis
  deriving DecidableEq, Repr

/-- The fault record after power-on, a line clear and a clearing query (R166). -/
def FaultRecord.clear : FaultRecord := ⟨false, false, .attn, none, none, none, 0, 0⟩

/-- The names of the thirteen counters, in the order of R169. -/
inductive CounterName where
  | trackFull
  | lateNotice
  | badNotice
  | dupNotice
  | claimLost
  | forfeit
  | absent
  | lapsed
  | eyeOverrun
  | txDrop
  | rxLost
  | linkError
  | weightDeviation
  deriving DecidableEq, Repr

/-- The thirteen counters, in the order of R169; linkError is LINK ERROR + STALE. -/
structure Counters where
  trackFull : Nat
  lateNotice : Nat
  badNotice : Nat
  dupNotice : Nat
  claimLost : Nat
  forfeit : Nat
  absent : Nat
  lapsed : Nat
  eyeOverrun : Nat
  txDrop : Nat
  rxLost : Nat
  linkError : Nat
  weightDeviation : Nat
  deriving DecidableEq, Repr

/-- All counters 0: power-on, a line clear, a clearing STATUS QUERY (R169, R171). -/
def Counters.zero : Counters := ⟨0, 0, 0, 0, 0, 0, 0, 0, 0, 0, 0, 0, 0⟩

/-- The operations of the robot port (R108). -/
inductive OpKind where
  | place
  | scan
  | swap
  deriving DecidableEq, Repr

/-- A tile map: one value for each tile, numbered row × 6 + col (R62). -/
abbrev Tiles (α : Type) := Vector α 24

/-- What a BUILD REPORT carries (R42). -/
structure BuildReport where
  build : BuildId
  state : BuildState
  orderRef : BitVec 32
  placed : Nat
  planned : Nat
  opened : Nat
  greatest : Nat
  weight : Nat
  mismatch : Tiles Bool
  deriving DecidableEq, Repr

/-- A pair of due and in-flight marks, for a scan or a swap of one build (R170). -/
structure DueMarks where
  due : Bool
  inFlight : Bool
  deriving DecidableEq, Repr

/-- What STATUS 1 carries (R170). -/
structure Status1 where
  station : StationState
  lineTaken : Bool
  setup1Taken : Bool
  setup2Taken : Bool
  throttled : Bool
  throttleSeen : Bool
  robotReady : Bool
  streak : Nat
  cycles : Nat
  operation : Option (OpKind × BuildId)
  trackLength : Nat
  pickLength : Nat
  planLengthA : Nat
  planLengthB : Nat
  stateA : BuildState
  stateB : BuildState
  scanA : DueMarks
  scanB : DueMarks
  swapA : DueMarks
  swapB : DueMarks
  fault : FaultRecord
  deriving DecidableEq, Repr

/-- The frames that the part sends (12 section 12.1), by what they carry. -/
inductive TxBody where
  | claim (tag : Tag) (score : Nat) (build : BuildId)
  | miss (tag : Tag) (reason : MissReason)
  | reply (kind : Byte) (code : Byte) (build : Option BuildId) (result : ReplyCode) (nextLine : Byte)
  | palletDone (build : BuildId) (orderRef : BitVec 32) (placed : Nat) (weight : Nat) (verified : Bool)
  | buildReport (report : BuildReport)
  | faultReport (record : FaultRecord)
  | status1 (report : Status1)
  | status2 (counters : Counters)
  | hello (lineTaken : Bool) (setup1Taken : Bool) (setup2Taken : Bool)
  | ready (creditsA : Nat) (creditsB : Nat)
  deriving DecidableEq, Repr

/-- A frame held in the transmit queue (R24). noRetry: a frame that a failed transmission removes (R24, R27).
linked: a CLAIM that is the own bid's frame of the record that holds its tag (R25, R30; log entry 16). -/
structure TxFrame where
  body : TxBody
  inTransmission : Bool
  noRetry : Bool
  linked : Bool
  deriving DecidableEq, Repr

/-! ### Belt counter, case track list -/

/-- The kinds of registered position (01 section 1.1.1). -/
inductive PosKind where
  | sendDeadline
  | closePoint
  | eyeWindowEnd
  | pickOpen
  | pickClose
  deriving DecidableEq, Repr

/-- A position registered with the belt counter (R3): its kind and owner's tag, its value, and whether its event has
been raised and not yet taken (log entry 3). -/
structure Position where
  kind : PosKind
  tag : Tag
  value : Count
  raised : Bool
  deriving DecidableEq, Repr

/-- The descriptor of a case, as checked and clamped (R7, R11). -/
structure CaseDesc where
  article : Nat
  w : Nat
  d : Nat
  h : Nat
  weight : Nat
  rating : Nat
  base : Bool
  stamp : Count
  deriving DecidableEq, Repr

/-- The states of a track record (01 section 1.4). -/
inductive TrackState where
  | unbid
  | queued
  | sent
  | unbacked
  | lost
  deriving DecidableEq, Repr

/-- A claim as it is compared: score and station number (R13). -/
structure Heard where
  score : Nat
  station : Nat
  deriving DecidableEq, Repr

/-- A record's own bid: build, score, and whether it still refers to a plan entry (R23, R28, R30). -/
structure OwnBid where
  build : BuildId
  score : Nat
  hasEntry : Bool
  deriving DecidableEq, Repr

/-- A record of the case track list (R11). -/
structure TrackRecord where
  tag : Tag
  desc : CaseDesc
  closeAt : Count
  deadlineAt : Count
  deadlinePassed : Bool
  state : TrackState
  best : Option Heard
  bid : Option OwnBid
  deriving DecidableEq, Repr

/-! ### Build table, plan lists, verify unit -/

/-- The order header, as clamped (R45). -/
structure OrderHeader where
  ref : BitVec 32
  priority : Nat
  lineCount : Nat
  heightLimit : Nat
  reserve : Nat
  reserveRight : Bool
  deriving DecidableEq, Repr

/-- A demand line (R48). Open is ordered − planned − placed at all times, so it is computed. -/
structure DemandLine where
  article : Nat
  base : Bool
  ordered : Nat
  planned : Nat
  placed : Nat
  deriving DecidableEq, Repr

/-- A build's ending (03 section 3.1). -/
inductive Ending where
  | noEnding
  | cancel
  | release
  deriving DecidableEq, Repr

/-- One surface of a build: tile heights and margins, and the totals (R62, R63; log entry 18). -/
structure Surface where
  height : Tiles Nat
  margin : Tiles Nat
  weight : Nat
  mx : Int
  my : Int
  cases : Nat
  deriving DecidableEq, Repr

/-- The margin of a bare deck tile (R62). -/
def deckMargin : Nat := 60000

/-- A surface reset to deck (R64). -/
def Surface.deck : Surface := ⟨Vector.replicate 24 0, Vector.replicate 24 deckMargin, 0, 0, 0, 0⟩

/-- The states of a plan entry (R84). -/
inductive PlanState where
  | contested
  | won
  | placing
  deriving DecidableEq, Repr

/-- The open hypotheses of an uncertain entry (R85). -/
inductive Hypotheses where
  | placedOrNot
  | notPlacedOnly
  deriving DecidableEq, Repr

/-- A rectangle of tiles: anchor and oriented extents (R65). -/
structure Footprint where
  col : Nat
  row : Nat
  fx : Nat
  fy : Nat
  deriving DecidableEq, Repr

/-- A plan entry (R83). turned is orientation 1. -/
structure PlanEntry where
  tag : Tag
  line : Nat
  foot : Footprint
  turned : Bool
  base : Nat
  h : Nat
  weight : Nat
  rating : Nat
  baseFlag : Bool
  state : PlanState
  uncertain : Option Hypotheses
  deriving DecidableEq, Repr

/-- The kinds of scan (08 section 8.1), lowest rank first (R135). -/
inductive ScanKind where
  | step
  | uncertain
  | final
  | rescan
  deriving DecidableEq, Repr

/-- A scan in flight: kind, uncertain or plain, release mark (R137, R144). -/
structure ScanFlight where
  kind : ScanKind
  uncertain : Bool
  release : Bool
  deriving DecidableEq, Repr

/-- The hold origin of a build (R141). -/
inductive HoldOrigin where
  | noOrigin
  | closing
  deriving DecidableEq, Repr

/-- A build record with its plan list, the verify unit's items and the exchange's items for it (03 section 3.1, R82,
R132, 09 section 9.1). -/
structure Build where
  state : BuildState
  order : Option OrderHeader
  lines : List DemandLine
  nextLine : Nat
  ending : Ending
  built : Surface
  planned : Surface
  plan : List PlanEntry
  mismatch : Tiles Bool
  scanDue : Option ScanKind
  scanInFlight : Option ScanFlight
  holdOrigin : HoldOrigin
  swapDue : Bool
  swapInFlight : Bool
  deriving DecidableEq, Repr

/-- A mismatch map with every tile clear (R132). -/
def clearMap : Tiles Bool := Vector.replicate 24 false

/-- A build record after power-on (R41, R82, R132, 09 section 9.1). -/
def Build.atPowerOn : Build where
  state := .unused
  order := none
  lines := []
  nextLine := 0
  ending := .noEnding
  built := Surface.deck
  planned := Surface.deck
  plan := []
  mismatch := clearMap
  scanDue := none
  scanInFlight := none
  holdOrigin := .noOrigin
  swapDue := false
  swapInFlight := false

/-! ### Pick order list, robot port -/

/-- What an eye match gives a pick entry (R99, R101). -/
structure EyeMatch where
  capture : Count
  openAt : Count
  closeAt : Count
  windowOpen : Bool
  deriving DecidableEq, Repr

/-- The states of a pick entry, with what is present in each (R99). -/
inductive PickPhase where
  | awaitEye
  | arrived (m : EyeMatch)
  | placing (m : EyeMatch)
  deriving DecidableEq, Repr

/-- A pick entry (R99). Tag and build refer to its plan entry. -/
structure PickEntry where
  tag : Tag
  build : BuildId
  stamp : Count
  expected : Count
  winStart : Count
  winEnd : Count
  phase : PickPhase
  deriving DecidableEq, Repr

/-- The in-flight record of the robot port (R108). -/
structure InFlight where
  kind : OpKind
  seq : Byte
  build : BuildId
  tag : Option Tag
  startedAt : Millis
  limitMs : Nat
  discard : Bool
  deriving DecidableEq, Repr

/-- The port receiver (R177): idle, or the bytes taken since the start byte and the time at which the last byte of the
record was taken. -/
inductive Receiver where
  | idle
  | taking (got : List Byte) (lastAt : Millis)
  deriving DecidableEq, Repr

/-! ### Start-up controller -/

/-- The values of LINE SETUP, as clamped (R158). -/
structure LineSetup where
  closeDist : Count
  guardDist : Count
  supportTol : Nat
  wmax : Nat
  cogFloor : Nat
  limX : Nat
  limY : Nat
  verifyTol : Nat
  deriving DecidableEq, Repr

/-- The values of STATION SETUP 1, as clamped (R159). placeBase100: the base is 100 ms, otherwise 10 ms. -/
structure Setup1 where
  eyeDist : Count
  eyeTol : Count
  pickOpen : Count
  pickClose : Count
  creditsA : Nat
  creditsB : Nat
  placeBase100 : Bool
  placeCount : Nat
  scanLimit : Nat
  swapLimit : Nat
  deriving DecidableEq, Repr

/-- The values of STATION SETUP 2, as clamped (R160). -/
structure Setup2 where
  q1 : Nat
  q2 : Nat
  pauseLength : Nat
  stallLatch : Bool
  throttleOn : Nat
  hyst : Nat
  throttleCut : Nat
  verifyStep : Nat
  weightTol : Nat
  deriving DecidableEq, Repr

/-- The levels of the beacon outputs BRUN, BATTN and BSTOP: true is high (11 section 11.4). -/
structure Beacons where
  run : Bool
  attn : Bool
  stop : Bool
  deriving DecidableEq, Repr

/-- The state of the part, block by block, and the two queues that wait outside it: the commands, and the bytes on the
URX pin that the port receiver has not taken yet (log entries 7 and 25). ownSent is the frame that this station
has sent, or is sending, and has not yet received back (R25, R162; log entry 35). -/
structure State where
  txQueue : List TxFrame
  rxBuffer : List Frame
  ctx : Option Frame
  ownSent : Option Frame
  belt : Count
  positions : List Position
  eyeLatch : Option Count
  track : List TrackRecord
  throttled : Bool
  throttleSeen : Bool
  sweep : Option Nat
  pendingSweep : Bool
  buildA : Build
  buildB : Build
  pick : List PickEntry
  inFlight : Option InFlight
  seqCounter : Byte
  robotReady : Bool
  receiver : Receiver
  urx : List Byte
  utx : Option (List Byte)
  streak : Nat
  cycles : Nat
  pauseTimer : Option Millis
  station : StationState
  stationNumber : Option Nat
  lineSetup : Option LineSetup
  setup1 : Option Setup1
  setup2 : Option Setup2
  pairing : Option (BitVec 16)
  fault : FaultRecord
  counters : Counters
  beacons : Beacons
  timeBase : Millis
  pending : List Instr
  deriving DecidableEq, Repr

/-- Every block at its power-on values, before the straps are read (R1, R5, R15, R16, R24, R40, R41, R99, R106 to
R108, R123, R132, R155, R166, R169, R177): no station number, SILENT, STOP on. -/
def State.blank : State where
  txQueue := []
  rxBuffer := []
  ctx := none
  ownSent := none
  belt := 0
  positions := []
  eyeLatch := none
  track := []
  throttled := false
  throttleSeen := false
  sweep := none
  pendingSweep := false
  buildA := Build.atPowerOn
  buildB := Build.atPowerOn
  pick := []
  inFlight := none
  seqCounter := 0
  robotReady := false
  receiver := .idle
  urx := []
  utx := none
  streak := 0
  cycles := 0
  pauseTimer := none
  station := .silent
  stationNumber := none
  lineSetup := none
  setup1 := none
  setup2 := none
  pairing := none
  fault := FaultRecord.clear
  counters := Counters.zero
  beacons := ⟨false, false, true⟩
  timeBase := 0
  pending := []

/-- The machine right after reset, with straps that read 1 (DESIGN CHOICE: the board wiring is not given; log entry
1): AWAIT CONFIG with one HELLO in the transmit queue and all beacons off (R155, R172 to R174). -/
def State.reset : State :=
  { State.blank with
    txQueue := [⟨.hello false false false, false, false, false⟩]
    station := .awaitConfig
    stationNumber := some 1
    beacons := ⟨false, false, false⟩ }

end Sys2Proof.Machine
end

