-- ==== Sys2Proof/Machine/Ops.lean ====
section
/-!
DEFINITION. The named operations that several commands share: belt positions, counters, the transmit queue, sweeps, the
track list, the pick order list and its throttle, the fault record, and access to builds and setup values.
-/
namespace Sys2Proof.Machine

/-- What a command answers. -/
abbrev Result := Host.Outcome State Fault Refusal

/-! ### Belt positions (R2, R3) -/

/-- Position p is reached at belt count c: the half-range test (R2, 00_scope.md section 6.1). -/
def reached (c p : Count) : Bool := (c - p).toNat < 32768

/-- Capture c lies inside the window from a to b, both ends included (R2). -/
def insideWindow (c a b : Count) : Bool := (c - a).toNat ≤ (b - a).toNat

/-- A position is the one of this kind and owner. -/
def Position.is (kind : PosKind) (tag : Tag) (p : Position) : Bool := p.kind == kind && p.tag == tag

/-- Register a position; one that is already reached raises its event at once (R3). -/
def register (kind : PosKind) (tag : Tag) (value : Count) (s : State) : State :=
  { s with positions := s.positions ++ [⟨kind, tag, value, reached s.belt value⟩] }

/-- Withdraw a registered position; its event, raised or not, is not taken any more (R3). -/
def unregister (kind : PosKind) (tag : Tag) (s : State) : State :=
  { s with positions := s.positions.filter (fun p => !p.is kind tag) }

/-- The event of this position has been raised and not yet taken (R3; log entry 3). -/
def isRaised (kind : PosKind) (tag : Tag) (s : State) : Bool :=
  s.positions.any (fun p => p.is kind tag && p.raised)

/-- Withdraw the positions of a track record (R14, R15). -/
def unregisterTrack (tag : Tag) (s : State) : State :=
  { s with positions := s.positions.filter (fun p => !(p.is .sendDeadline tag || p.is .closePoint tag)) }

/-- Withdraw the positions of a pick entry (R84). -/
def unregisterPick (tag : Tag) (s : State) : State :=
  { s with positions :=
      s.positions.filter (fun p => !(p.is .eyeWindowEnd tag || p.is .pickOpen tag || p.is .pickClose tag)) }

/-! ### Counters (R169) -/

/-- One more, stopping at 255 (R169). -/
def saturate255 (n : Nat) : Nat := min (n + 1) 255

/-- Advance one counter (R169). -/
def Counters.bump (name : CounterName) (c : Counters) : Counters :=
  match name with
  | .trackFull => { c with trackFull := saturate255 c.trackFull }
  | .lateNotice => { c with lateNotice := saturate255 c.lateNotice }
  | .badNotice => { c with badNotice := saturate255 c.badNotice }
  | .dupNotice => { c with dupNotice := saturate255 c.dupNotice }
  | .claimLost => { c with claimLost := saturate255 c.claimLost }
  | .forfeit => { c with forfeit := saturate255 c.forfeit }
  | .absent => { c with absent := saturate255 c.absent }
  | .lapsed => { c with lapsed := saturate255 c.lapsed }
  | .eyeOverrun => { c with eyeOverrun := saturate255 c.eyeOverrun }
  | .txDrop => { c with txDrop := saturate255 c.txDrop }
  | .rxLost => { c with rxLost := saturate255 c.rxLost }
  | .linkError => { c with linkError := saturate255 c.linkError }
  | .weightDeviation => { c with weightDeviation := saturate255 c.weightDeviation }

/-- Count one event (R169). -/
def count (name : CounterName) (s : State) : State :=
  { s with counters := s.counters.bump name }

/-! ### The transmit queue (R24, R26, R27) -/

/-- The frames the transmit queue holds at most (R24). -/
def txCapacity : Nat := 8

/-- A frame as it is placed in the queue. -/
def TxFrame.fresh (b : TxBody) : TxFrame := ⟨b, false, false, false⟩

/-- Offer a frame other than a CLAIM: a full queue drops it and counts TX DROP (R26); in SILENT no block offers a
frame (R163). -/
def offer (b : TxBody) (s : State) : State :=
  { s with
    txQueue :=
      if s.station = .silent ∨ txCapacity ≤ s.txQueue.length then s.txQueue else s.txQueue ++ [TxFrame.fresh b]
    counters :=
      if s.station ≠ .silent ∧ txCapacity ≤ s.txQueue.length then s.counters.bump .txDrop else s.counters }

/-- The queue has room and the station may transmit: an offered frame is placed. -/
def canOffer (s : State) : Bool := s.station ≠ .silent && s.txQueue.length < txCapacity

/-- Place a CLAIM in the queue as the own bid's frame of its record (R23 step 4). -/
def queueClaim (tag : Tag) (score : Nat) (build : BuildId) (s : State) : State :=
  { s with txQueue := s.txQueue ++ [⟨.claim tag score build, false, false, true⟩] }

/-- The frame is a CLAIM. -/
def TxFrame.isClaim (f : TxFrame) : Bool :=
  match f.body with
  | .claim _ _ _ => true
  | _ => false

/-- The frame is the own bid's frame of the record that holds this tag. -/
def TxFrame.isOwnClaim (tag : Tag) (f : TxFrame) : Bool :=
  match f.body with
  | .claim t _ _ => t == tag && f.linked
  | _ => false

/-- The record's CLAIM is in transmission. -/
def claimInTransmission (tag : Tag) (s : State) : Bool :=
  s.txQueue.any (fun f => f.isOwnClaim tag && f.inTransmission)

/-- Abort the record's CLAIM: a frame not in transmission is removed; one in transmission goes on, and a failed
transmission removes it (R27). -/
def abortClaim (tag : Tag) (s : State) : State :=
  { s with
    txQueue :=
      (s.txQueue.filter fun f => !(f.isOwnClaim tag && !f.inTransmission)).map fun f =>
        if f.isOwnClaim tag then { f with noRetry := true } else f }

/-- The record leaves the track list: a frame of it still in transmission has no record any more (R27). -/
def unlinkClaim (tag : Tag) (s : State) : State :=
  { s with
    txQueue := s.txQueue.map fun f =>
      if f.isOwnClaim tag then { f with noRetry := true, linked := false } else f }

/-! ### Sweeps (R20) -/

/-- Trigger a re-evaluation sweep: start one, or set the pending sweep while one is under way (R20). -/
def triggerSweep (s : State) : State :=
  { s with
    sweep := some (s.sweep.getD 0)
    pendingSweep := s.pendingSweep || s.sweep.isSome }

/-- The sweep reaches the end of the list: a pending sweep starts again from the oldest record (R20). -/
def endSweep (s : State) : State :=
  { s with
    sweep := if s.pendingSweep then some 0 else none
    pendingSweep := false }

/-! ### The case track list (R8, R11, R14) -/

/-- The records the track list holds at most (R10). -/
def trackCapacity : Nat := 24

/-- The record that holds a tag. -/
def findRecord (tag : Tag) (s : State) : Option TrackRecord := s.track.find? (fun r => r.tag == tag)

/-- Change the record that holds a tag. -/
def updateRecord (tag : Tag) (f : TrackRecord → TrackRecord) (s : State) : State :=
  { s with track := s.track.map (fun r => if r.tag == tag then f r else r) }

/-- A record leaves the track list: its positions are withdrawn, the records behind it keep their order, a sweep under
way goes on from the same record (R14, R20; log entry 28), and its frame in transmission is no record's frame any more
(R27). -/
def removeRecord (tag : Tag) (s : State) : State :=
  let s1 := unlinkClaim tag (unregisterTrack tag s)
  { s1 with
    track := s1.track.filter (fun r => !(r.tag == tag))
    sweep := s1.sweep.map (fun c => c - (s1.track.take c).countP (fun r => r.tag == tag)) }

/-- A record returns to UNBID with its own bid cleared (R29, R30, R39). -/
def TrackRecord.toUnbid (r : TrackRecord) : TrackRecord := { r with state := .unbid, bid := none }

/-- A record keeps build and score of its own bid, without the entry reference (R28, R30). -/
def TrackRecord.dropEntryRef (r : TrackRecord) : TrackRecord :=
  { r with bid := r.bid.map (fun b => { b with hasEntry := false }) }

/-! ### Setup values (R157 to R160) -/

/-- The line setup in force. Every rule that reads it acts after READY, where it is held (log entry 19). -/
def State.line (s : State) : LineSetup := s.lineSetup.getD ⟨0, 0, 0, 0, 0, 0, 0, 0⟩

/-- The values of STATION SETUP 1 in force (log entry 19). -/
def State.own1 (s : State) : Setup1 := s.setup1.getD ⟨0, 0, 0, 0, 0, 0, false, 0, 0, 0⟩

/-- The values of STATION SETUP 2 in force (log entry 19). -/
def State.own2 (s : State) : Setup2 := s.setup2.getD ⟨0, 0, 0, false, 0, 0, 0, 0, 0⟩

/-- The credits of a build position (R36). -/
def State.credits (s : State) : BuildId → Nat
  | .A => s.own1.creditsA
  | .B => s.own1.creditsB

/-- This station's number. A station with no number is SILENT, claims nothing and sends nothing (R155). -/
def State.number (s : State) : Nat := s.stationNumber.getD 0

/-! ### The pick order list and the throttle (R37, R38, R99) -/

/-- Become THROTTLED when an entry has joined and the length has reached THROTTLE_ON (R37, R38; log entry 24). -/
def throttleAtJoin (s : State) : State :=
  if !s.throttled && s.own2.throttleOn != 0 && s.own2.throttleOn ≤ s.pick.length then
    { s with throttled := true, throttleSeen := true }
  else s

/-- Lift the throttle when an entry has left and the length is at most THROTTLE_ON − HYST; a sweep follows (R37). -/
def throttleAtLeave (s : State) : State :=
  if s.throttled && s.pick.length ≤ s.own2.throttleOn - s.own2.hyst then
    triggerSweep { s with throttled := false }
  else s

/-- A pick entry joins the list at its tail in AWAIT EYE and registers its eye window end (R100). -/
def joinPick (tag : Tag) (build : BuildId) (stamp : Count) (s : State) : State :=
  let expected := stamp + s.own1.eyeDist
  let winEnd := expected + s.own1.eyeTol
  let s1 := { s with pick := s.pick ++ [⟨tag, build, stamp, expected, expected - s.own1.eyeTol, winEnd, .awaitEye⟩] }
  throttleAtJoin (register .eyeWindowEnd tag winEnd s1)

/-- A case's pick entry, if it has one, leaves the list and its positions are withdrawn (R84, R86). -/
def leavePick (tag : Tag) (s : State) : State :=
  if s.pick.any (fun p => p.tag == tag) then
    throttleAtLeave (unregisterPick tag { s with pick := s.pick.filter (fun p => !(p.tag == tag)) })
  else s

/-- The pick entry of a tag. -/
def findPick (tag : Tag) (s : State) : Option PickEntry := s.pick.find? (fun p => p.tag == tag)

/-- Change the state of a tag's pick entry. -/
def setPhase (tag : Tag) (phase : PickPhase) (s : State) : State :=
  { s with pick := s.pick.map (fun p => if p.tag == tag then { p with phase := phase } else p) }

/-! ### Builds -/

/-- The record of a build. -/
def State.build (s : State) : BuildId → Build
  | .A => s.buildA
  | .B => s.buildB

/-- Write the record of a build. -/
def setBuild (b : BuildId) (v : Build) (s : State) : State :=
  match b with
  | .A => { s with buildA := v }
  | .B => { s with buildB := v }

/-- Change the record of a build. -/
def updateBuild (b : BuildId) (f : Build → Build) (s : State) : State := setBuild b (f (s.build b)) s

/-- The plan entry of a tag in a build. -/
def findEntry (b : BuildId) (tag : Tag) (s : State) : Option PlanEntry :=
  (s.build b).plan.find? (fun e => e.tag == tag)

/-- An entry of either plan list holds the tag (R19). -/
def tagPlanned (tag : Tag) (s : State) : Bool :=
  s.buildA.plan.any (fun e => e.tag == tag) || s.buildB.plan.any (fun e => e.tag == tag)

/-! ### The fault record (R167) -/

/-- Record a fault: written whole, or only Overflow is set (R167). -/
def recordFault (cause : FaultCause) (severity : Severity) (build : Option BuildId) (tag : Option Tag) (s : State) :
    State :=
  { s with fault :=
      if !s.fault.valid then ⟨true, false, severity, some cause, build, tag, s.belt, s.timeBase⟩
      else if s.fault.severity = .attn ∧ severity = .stop then
        ⟨true, s.fault.overflow, severity, some cause, build, tag, s.belt, s.timeBase⟩
      else { s.fault with overflow := true } }

/-! ### The time base (log entry 5) -/

/-- At least `limit` ms have passed since `start`, counted modulo 2^32 (R108, R128). -/
def elapsed (now start : Millis) (limit : Nat) : Bool := limit ≤ (now - start).toNat

/-- The time base at the expiry of a timer: where the limit has not passed yet, the moment at which it has passed
(log entry 5). -/
def runTo (start : Millis) (limit : Nat) (s : State) : State :=
  { s with timeBase := if elapsed s.timeBase start limit then s.timeBase else start + BitVec.ofNat 32 limit }

end Sys2Proof.Machine
end

