-- ==== Sys2Proof/Machine/Flags.lean ====
section
/-!
DEFINITION. Every flag the part computes: the three beacon conditions, the flag bytes of FAULT REPORT, HELLO and
STATUS 1, and the pairs of due and in-flight bits.
-/
namespace Sys2Proof.Machine

/-- A build is in OPEN. -/
def anyOpen (s : State) : Bool := s.buildA.state == .opened || s.buildB.state == .opened

/-- A build is in HELD. -/
def anyHeld (s : State) : Bool := s.buildA.state == .held || s.buildB.state == .held

/-- The on half of the 1 Hz blink: the time base modulo 1000 is below 500 (R172). -/
def blinkOn (t : Millis) : Bool := t.toNat % 1000 < 500

/-- The RUN beacon (R172). -/
def runBeacon (s : State) : Bool := s.station == .run && (anyOpen s || blinkOn s.timeBase)

/-- The ATTN beacon (R173). -/
def attnBeacon (s : State) : Bool :=
  anyHeld s || s.station == .paused || (s.fault.valid && s.fault.severity == .attn)

/-- The STOP beacon (R174). -/
def stopBeacon (s : State) : Bool :=
  s.station == .stalled || s.station == .silent || (s.fault.valid && s.fault.severity == .stop)

/-- Each beacon line takes its level in the event that changes its condition (11 section 11.4; log entry 34). -/
def showBeacons (s : State) : State :=
  { s with beacons := ⟨runBeacon s, attnBeacon s, stopBeacon s⟩ }

/-- A command ends: the beacon lines show the state it leaves. -/
def done (s : State) : Result := .next (showBeacons s)

/-- A byte made of flags, bit 0 first. -/
def flagByte (flags : List Bool) : Byte :=
  BitVec.ofNat 8 (flags.foldr (fun b n => 2 * n + b.toNat) 0)

/-- The flags byte of a FAULT REPORT and of STATUS 1: Valid, Overflow, severity STOP, tag present (12 section 12.4). -/
def FaultRecord.flags (f : FaultRecord) : Byte :=
  flagByte [f.valid, f.overflow, f.severity == .stop, f.tag.isSome]

/-- The flags byte of HELLO: which setup frames are taken (12 section 12.4). -/
def takenFlags (line setup1 setup2 : Bool) : Byte := flagByte [line, setup1, setup2]

/-- The flags byte of STATUS 1 (12 section 12.4). -/
def Status1.flags (r : Status1) : Byte :=
  flagByte [r.lineTaken, r.setup1Taken, r.setup2Taken, r.throttled, r.throttleSeen, r.robotReady]

/-- The scan and swap byte of STATUS 1: scan of A, scan of B, swap of A, swap of B, in each pair the lower bit due and
the higher in flight (12 section 12.4). -/
def Status1.scanSwap (r : Status1) : Byte :=
  flagByte [r.scanA.due, r.scanA.inFlight, r.scanB.due, r.scanB.inFlight,
    r.swapA.due, r.swapA.inFlight, r.swapB.due, r.swapB.inFlight]

end Sys2Proof.Machine
end

