-- ==== Sys2Proof/Machine/Grid.lean ====
section
/-!
DEFINITION. The tile grid and the placement arithmetic of chapter 4: footprints, the eight steps of the candidate test,
the score, the placement search, and applying a placement to a surface.
-/
namespace Sys2Proof.Machine

/-! ### Footprints (R65, R66) -/

/-- A tile lies in a footprint; tile index is row × 6 + col (R62, R65). -/
def covers (f : Footprint) (t : Fin 24) : Bool :=
  f.col ≤ t.val % 6 && t.val % 6 < f.col + f.fx && f.row ≤ t.val / 6 && t.val / 6 < f.row + f.fy

/-- The tiles of a footprint, in index order (R65). -/
def tilesOf (f : Footprint) : List (Fin 24) := (List.finRange 24).filter (covers f)

/-- The number k of tiles of a footprint (R65). -/
def Footprint.tiles (f : Footprint) : Nat := f.fx * f.fy

/-- The centre of a footprint along x, in mm (R65). -/
def Footprint.xc (f : Footprint) : Int := 200 * f.col + 100 * f.fx

/-- The centre of a footprint along y, in mm (R65). -/
def Footprint.yc (f : Footprint) : Int := 200 * f.row + 100 * f.fy

/-- The anchors of one orientation in tile-index order, the footprint on the deck (R66). -/
def anchors (fx fy : Nat) : List Footprint :=
  (List.range 24).filterMap fun t =>
    if t % 6 + fx ≤ 6 ∧ t / 6 + fy ≤ 4 then some ⟨t % 6, t / 6, fx, fy⟩ else none

/-- The candidates of a case in enumeration order: orientation 0, then orientation 1 when w and d differ (R66). -/
def candidates (w d : Nat) : List (Bool × Footprint) :=
  (anchors w d).map (fun f => (false, f)) ++ (if w = d then [] else (anchors d w).map (fun f => (true, f)))

/-! ### Surfaces -/

/-- The greatest height over a footprint: the base (R68, R78). -/
def baseOver (h : Tiles Nat) (f : Footprint) : Nat := (tilesOf f).foldl (fun m t => max m h[t]) 0

/-- The gap U: the sum of the voids under the case (R68). -/
def gapOver (h : Tiles Nat) (f : Footprint) : Nat := ((tilesOf f).map fun t => baseOver h f - h[t]).sum

/-- Every tile of the footprint lies at most tol below the base: the support check (R69, R97). -/
def supported (h : Tiles Nat) (f : Footprint) (base tol : Nat) : Bool := (tilesOf f).all fun t => base ≤ h[t] + tol

/-- The greatest height over the 24 tiles (R42, R133). -/
def greatestHeight (s : Surface) : Nat := s.height.toList.foldl max 0

/-- Every tile of a build has built height 0 (R41). -/
def allDeck (s : Surface) : Bool := s.height.toList.all (fun h => h == 0)

/-- The share of a weight on each of k tiles, rounded up (R73). -/
def shareOf (weight k : Nat) : Nat := (weight + k - 1) / k

/-- The capacity that a case of rating R offers on each of k tiles, rounded down (R79). -/
def capacityOf (rating k : Nat) : Nat := rating * 20 / k

/-! ### The candidate test (R67 to R76) -/

/-- What the checks read of the case: height, weight, combined BASE flag (R67). -/
structure CaseLoad where
  h : Nat
  weight : Nat
  base : Bool
  deriving DecidableEq, Repr

/-- Step 3, the BASE check (R70). -/
def baseCheck (c : CaseLoad) (base : Nat) : Bool := !c.base || base == 0

/-- A column is reserved by the order (R50). -/
def reservedColumn (o : OrderHeader) (col : Nat) : Bool :=
  if o.reserveRight then 6 - o.reserve ≤ col else col < o.reserve

/-- Step 4, the reserve check (R71). -/
def reserveCheck (active : Bool) (o : OrderHeader) (c : CaseLoad) (base : Nat) (f : Footprint) : Bool :=
  !(active && !c.base && base == 0 && (tilesOf f).any (fun t => reservedColumn o (t.val % 6)))

/-- Step 5, the height check (R72). -/
def heightCheck (limit base h : Nat) : Bool := base + h ≤ limit

/-- Step 6, the load check (R73). -/
def loadCheck (s : Surface) (weight : Nat) (f : Footprint) : Bool :=
  (tilesOf f).all fun t => shareOf weight f.tiles ≤ s.margin[t]

/-- Step 7, the weight check (R74). -/
def weightCheck (v : LineSetup) (s : Surface) (weight : Nat) : Bool := s.weight + weight ≤ v.wmax * 10

/-- Step 8, the centre-of-gravity check (R75). -/
def cogCheck (v : LineSetup) (s : Surface) (weight : Nat) (f : Footprint) : Bool :=
  s.weight + weight < v.cogFloor * 10 ||
    ((s.mx + weight * (f.xc - 600)).natAbs ≤ v.limX * (s.weight + weight) &&
      (s.my + weight * (f.yc - 400)).natAbs ≤ v.limY * (s.weight + weight))

/-- The checks that a recomputation makes too: support, height, load, weight and centre of gravity (R90). -/
def standingChecks (v : LineSetup) (limit : Nat) (s : Surface) (base h weight : Nat) (f : Footprint) : Bool :=
  supported s.height f base v.supportTol && heightCheck limit base h && loadCheck s weight f &&
    weightCheck v s weight && cogCheck v s weight f

/-- The seven checks of the candidate test at the base it finds (R67). -/
def feasible (v : LineSetup) (o : OrderHeader) (active : Bool) (s : Surface) (c : CaseLoad) (f : Footprint) : Bool :=
  standingChecks v o.heightLimit s (baseOver s.height f) c.h c.weight f && baseCheck c (baseOver s.height f) &&
    reserveCheck active o c (baseOver s.height f) f

/-- The score of a feasible candidate (R76). -/
def scoreOf (o : OrderHeader) (s : Surface) (h : Nat) (f : Footprint) : Nat :=
  64 * (baseOver s.height f + h) + 16 * gapOver s.height f + 2048 * o.priority

/-! ### The placement search (R77) -/

/-- A result of the placement search: what a plan entry and a CLAIM need of it (R77). -/
structure Found where
  turned : Bool
  foot : Footprint
  base : Nat
  score : Nat
  deriving DecidableEq, Repr

/-- The candidate test on one candidate (R67). -/
def testCandidate (v : LineSetup) (o : OrderHeader) (active : Bool) (s : Surface) (c : CaseLoad)
    (cand : Bool × Footprint) : Option Found :=
  if feasible v o active s c cand.2 then
    some ⟨cand.1, cand.2, baseOver s.height cand.2, scoreOf o s c.h cand.2⟩
  else none

/-- The first of two results unless the second scores lower (R77). -/
def keepFirst (best : Option Found) (next : Option Found) : Option Found :=
  match best, next with
  | none, n => n
  | some b, none => some b
  | some b, some n => if n.score < b.score then some n else some b

/-- The placement search: the first candidate in enumeration order whose score is the lowest found (R77). -/
def search (v : LineSetup) (o : OrderHeader) (active : Bool) (s : Surface) (c : CaseLoad) (w d : Nat) : Option Found :=
  (candidates w d).foldl (fun best cand => keepFirst best (testCandidate v o active s c cand)) none

/-! ### Applying a placement (R78 to R81) -/

/-- The weight that apply takes: 1 to 4095 weight units (R81). -/
def applyWeight (weight : Nat) : Nat := max 1 (min weight 4095)

/-- A tile is clamped by the apply of a weight: its margin is below the share (R79). -/
def clampedAt (s : Surface) (f : Footprint) (weight : Nat) (t : Fin 24) : Bool :=
  covers f t && s.margin[t] < shareOf (applyWeight weight) f.tiles

/-- Apply reports a clamped tile (R79). -/
def anyClamped (s : Surface) (f : Footprint) (weight : Nat) : Bool := (List.finRange 24).any (clampedAt s f weight)

/-- Stack one case on a surface: heights, margins, totals (R78 to R81). A margin below the share becomes 0. -/
def Surface.apply (s : Surface) (f : Footprint) (h weight rating : Nat) : Surface where
  height := Vector.ofFn fun t => if covers f t then baseOver s.height f + h else s.height[t]
  margin := Vector.ofFn fun t =>
    if covers f t then min (s.margin[t] - shareOf (applyWeight weight) f.tiles) (capacityOf rating f.tiles)
    else s.margin[t]
  weight := s.weight + applyWeight weight
  mx := s.mx + applyWeight weight * (f.xc - 600)
  my := s.my + applyWeight weight * (f.yc - 400)
  cases := s.cases + 1

end Sys2Proof.Machine
end

