-- ==== Sys2Proof/Machine/Plan.lean ====
section
/-!
DEFINITION. The build table and the plan lists as operations: demand accounting, BUILD REPORT, withdrawal, the
recomputation walk, entry to HELD, completion, the settling of an ending, and placement on the built surface
(chapters 3, 5 and 8).
-/
namespace Sys2Proof.Machine

/-! ### Demand accounting (R48 to R50, R52) -/

/-- The open count of a demand line: ordered − planned − placed (R48). -/
def DemandLine.openCount (l : DemandLine) : Nat := l.ordered - l.planned - l.placed

/-- The line of a bid or fresh placement: planned + 1 (R48). -/
def DemandLine.plan (l : DemandLine) : DemandLine := { l with planned := l.planned + 1 }

/-- The line of an entry removed without being placed: planned − 1 (R48). -/
def DemandLine.unplan (l : DemandLine) : DemandLine := { l with planned := l.planned - 1 }

/-- The line of an entry placed: planned − 1, placed + 1 (R48). -/
def DemandLine.place (l : DemandLine) : DemandLine := { l with planned := l.planned - 1, placed := l.placed + 1 }

/-- The demand match: the lowest-index line for the article with open count above 0; none with no order or with an
ending (R49). -/
def demandMatch (x : Build) (article : Nat) : Option Nat :=
  if x.order.isSome && x.ending == .noEnding then
    x.lines.findIdx? (fun l => l.article == article && 0 < l.openCount)
  else none

/-- The deck reserve is active (R50). -/
def reserveActive (x : Build) : Bool :=
  match x.order with
  | none => false
  | some o => 0 < o.reserve && x.lines.any (fun l => l.base && 0 < l.openCount)

/-- Every demand line has open 0 and planned 0 (R52). -/
def orderComplete (x : Build) : Bool := x.lines.all (fun l => l.openCount == 0 && l.planned == 0)

/-- The order header and the demand lines are discarded (R48, R61, R149; log entry 15 for the next line index). -/
def Build.dropOrder (x : Build) : Build := { x with order := none, lines := [], nextLine := 0 }

/-! ### Reports (R42, R147) -/

/-- The BUILD REPORT of a build as it stands (R42). -/
def reportOf (b : BuildId) (x : Build) : BuildReport where
  build := b
  state := x.state
  orderRef := (x.order.map OrderHeader.ref).getD 0
  placed := (x.lines.map DemandLine.placed).sum
  planned := (x.lines.map DemandLine.planned).sum
  opened := (x.lines.map DemandLine.openCount).sum
  greatest := greatestHeight x.built
  weight := x.built.weight
  mismatch := x.mismatch

/-- Offer a BUILD REPORT of a build (R42). -/
def reportBuild (b : BuildId) (s : State) : State := offer (.buildReport (reportOf b (s.build b))) s

/-- Offer PALLET DONE of a build (R147). -/
def palletDone (b : BuildId) (verified : Bool) (s : State) : State :=
  let x := s.build b
  offer (.palletDone b ((x.order.map OrderHeader.ref).getD 0) x.built.cases x.built.weight verified) s

/-! ### Scans that fall due (R135, R136) -/

/-- The rank of a scan kind: rescan, final, uncertain, step (R135). -/
def ScanKind.rank : ScanKind → Nat
  | .step => 0
  | .uncertain => 1
  | .final => 2
  | .rescan => 3

/-- A scan becomes due: the higher of the two kinds stays (R135). -/
def mergeDue (due : Option ScanKind) (kind : ScanKind) : Option ScanKind :=
  match due with
  | none => some kind
  | some k => if k.rank < kind.rank then some kind else some k

/-- A scan of a build becomes due (R135). -/
def Build.makeScanDue (kind : ScanKind) (x : Build) : Build := { x with scanDue := mergeDue x.scanDue kind }

/-- The due scan that an entry to HELD keeps: a step or final scan is dropped (R136). -/
def dueInHeld : Option ScanKind → Option ScanKind
  | some .step => none
  | some .final => none
  | due => due

/-- A build enters CLOSING and its final scan becomes due (R135, R145). -/
def Build.enterClosing (x : Build) : Build := { x with state := .closing }.makeScanDue .final

/-! ### Withdrawal (R30, R86) -/

/-- The record of a withdrawn CONTESTED entry moves by its state (R30). -/
def unbackRecord (tag : Tag) (s : State) : State :=
  match findRecord tag s with
  | none => s
  | some r =>
    match r.state with
    | .sent => updateRecord tag (fun r => { r.dropEntryRef with state := .unbacked }) s
    | .queued =>
      if claimInTransmission tag s then
        abortClaim tag (updateRecord tag (fun r => { r.dropEntryRef with state := .unbacked }) s)
      else updateRecord tag TrackRecord.toUnbid (abortClaim tag s)
    | .unbid => s
    | .unbacked => s
    | .lost => s

/-- Steps 1 and 2 of a withdrawal: the entry leaves the plan list, its line's planned count falls, and the freed credit
triggers a sweep (R86, R87, R20). -/
def takeOut (b : BuildId) (e : PlanEntry) (s : State) : State :=
  triggerSweep (updateBuild b (fun x =>
    { x with
      plan := x.plan.filter (fun p => !(p.tag == e.tag))
      lines := x.lines.modify e.line DemandLine.unplan }) s)

/-- Withdraw one entry: its record moves under R30, or its pick entry leaves and a MISS is offered (R86). No
recomputation. -/
def withdrawEntry (b : BuildId) (reason : MissReason) (e : PlanEntry) (s : State) : State :=
  match e.state with
  | .contested => unbackRecord e.tag (takeOut b e s)
  | .won => offer (.miss e.tag reason) (leavePick e.tag (takeOut b e s))
  | .placing => offer (.miss e.tag reason) (leavePick e.tag (takeOut b e s))

/-- An uncertain entry is removed by a release: no MISS (R59, R86). -/
def dropEntry (b : BuildId) (e : PlanEntry) (s : State) : State := leavePick e.tag (takeOut b e s)

/-! ### The recomputation walk (R87 to R91) -/

/-- Apply an entry to the planned surface with its announced weight (R89, R90). -/
def applyPlanned (b : BuildId) (e : PlanEntry) (s : State) : State :=
  updateBuild b (fun x => { x with planned := x.planned.apply e.foot e.h e.weight e.rating }) s

/-- A CONTESTED or WON entry passes the test of the walk at its recorded anchor (R90). -/
def standsInWalk (v : LineSetup) (x : Build) (e : PlanEntry) : Bool :=
  baseOver x.planned.height e.foot == e.base &&
    standingChecks v ((x.order.map OrderHeader.heightLimit).getD 0) x.planned e.base e.h e.weight e.foot

/-- One entry of the walk: applied, or withdrawn (R89 to R91). The flag says that the walk has withdrawn an entry. -/
def walkEntry (b : BuildId) (acc : State × Bool) (e : PlanEntry) : State × Bool :=
  if e.state == .placing || standsInWalk acc.1.line (acc.1.build b) e then (applyPlanned b e acc.1, acc.2)
  else (withdrawEntry b .withdrawn e acc.1, true)

/-- Recompute a build: copy built to planned, walk its plan list once, and trigger a sweep if the walk withdrew an
entry (R88, R91). -/
def recompute (b : BuildId) (s : State) : State :=
  let start := updateBuild b (fun x => { x with planned := x.built }) s
  let walked := (s.build b).plan.foldl (walkEntry b) (start, false)
  if walked.2 then triggerSweep walked.1 else walked.1

/-- Withdraw one entry that stands alone, and recompute (R87). -/
def withdrawAlone (b : BuildId) (reason : MissReason) (e : PlanEntry) (s : State) : State :=
  recompute b (withdrawEntry b reason e s)

/-- The CONTESTED and WON entries of a build, in plan order. -/
def movable (x : Build) : List PlanEntry := x.plan.filter (fun e => e.state != .placing)

/-- Withdraw the CONTESTED and WON entries of a build in plan order, without the recomputation that follows a batch
(R87). -/
def withdrawMovable (b : BuildId) (reason : MissReason) (s : State) : State :=
  (movable (s.build b)).foldl (fun t e => withdrawEntry b reason e t) s

/-- Withdraw the CONTESTED and WON entries of a build as a batch; one recomputation follows if it took any (R87; log
entry 33). -/
def withdrawBatch (b : BuildId) (reason : MissReason) (s : State) : State :=
  if (movable (s.build b)).isEmpty then s else recompute b (withdrawMovable b reason s)

/-! ### Entry to HELD (R53, R136, R141) -/

/-- A build not yet in HELD enters it: hold origin set, due step or final scan dropped. -/
def Build.hold (origin : HoldOrigin) (x : Build) : Build :=
  { x with state := .held, holdOrigin := origin, scanDue := dueInHeld x.scanDue }

/-- Entry to HELD, with its batch of withdrawals, recomputation and BUILD REPORT (R53). In HELD nothing changes. -/
def enterHeld (b : BuildId) (origin : HoldOrigin) (s : State) : State :=
  if (s.build b).state = .held then s
  else reportBuild b (withdrawBatch b .withdrawn (updateBuild b (Build.hold origin) s))

/-! ### Settling an ending (R57, R60) -/

/-- A settled cancel on an all-deck grid: EMPTY, the order discarded, the planned surface reset, the mismatch map and
hold origin cleared (R57, R132). -/
def Build.cancelEmpty (x : Build) : Build :=
  { x.dropOrder with
    state := .empty
    ending := .noEnding
    planned := Surface.deck
    mismatch := clearMap
    holdOrigin := .noOrigin }

/-- A settled cancel on a grid that is not all-deck: CLOSING with the final scan due (R57; log entry 26 for a rescan
that is due). -/
def Build.cancelClosing (x : Build) : Build := { x with ending := .noEnding, holdOrigin := .noOrigin }.enterClosing

/-- A settled release: a swap due, SWAPPING (R60, R151). -/
def Build.releaseSwap (x : Build) : Build :=
  { x with state := .swapping, ending := .noEnding, swapDue := true, holdOrigin := .noOrigin }

/-- A build in OPEN or HELD (R57, R60). -/
def inOpenOrHeld (x : Build) : Bool := x.state == .opened || x.state == .held

/-- Settle the ending of a build whose plan list is empty (R57, R60). -/
def settleEnding (b : BuildId) (s : State) : State :=
  let x := s.build b
  if inOpenOrHeld x && x.plan.isEmpty then
    match x.ending with
    | .noEnding => s
    | .cancel =>
      reportBuild b (updateBuild b (fun y => if allDeck y.built then y.cancelEmpty else y.cancelClosing) s)
    | .release => reportBuild b (updateBuild b Build.releaseSwap (palletDone b false s))
  else s

/-! ### Placement on the built surface (R93 to R96) -/

/-- The entry leaves the plan list as placed: planned − 1, placed + 1, and the freed credit triggers a sweep (R93
step 4, R20). -/
def takeOutPlaced (b : BuildId) (e : PlanEntry) (s : State) : State :=
  triggerSweep (updateBuild b (fun x =>
    { x with
      plan := x.plan.filter (fun p => !(p.tag == e.tag))
      lines := x.lines.modify e.line DemandLine.place }) s)

/-- Step 2: the entry is applied to the built surface (R93). -/
def applyBuilt (b : BuildId) (e : PlanEntry) (weight : Nat) (s : State) : State :=
  updateBuild b (fun x => { x with built := x.built.apply e.foot e.h weight e.rating }) s

/-- A build in OPEN with no ending whose order is complete: it enters CLOSING (R52). -/
def completes (x : Build) : Bool := x.state == .opened && x.ending == .noEnding && orderComplete x

/-- Step 3, OVERLOAD: the fault, and entry to HELD with its batch; the one recomputation and the report come later in
the event (R95; log entry 14). -/
def overload (b : BuildId) (tag : Tag) (s : State) : State :=
  let s1 := recordFault .overload .attn (some b) (some tag) s
  if (s1.build b).state = .held then s1
  else withdrawMovable b .withdrawn (updateBuild b (Build.hold .noOrigin) s1)

/-- Steps 2 and 3: apply to the built surface, and OVERLOAD where apply clamps a tile (R93). -/
def applyAndHold (b : BuildId) (e : PlanEntry) (weight : Nat) (s : State) : State :=
  if anyClamped (s.build b).built e.foot weight then overload b e.tag (applyBuilt b e weight s)
  else applyBuilt b e weight s

/-- Completion of an order in the event of a placement (R52). -/
def completeIfDone (b : BuildId) (s : State) : State :=
  if completes (s.build b) then updateBuild b Build.enterClosing s else s

/-- A BUILD REPORT when the state of a build differs from an earlier one (R42). -/
def reportChange (b : BuildId) (before : BuildState) (s : State) : State :=
  if (s.build b).state = before then s else reportBuild b s

/-- An entry is taken as placed with a weight: steps 2 to 5 of R93, the report of the change of state, and the settling
of an ending (R93, R95, R96). -/
def takePlaced (b : BuildId) (e : PlanEntry) (weight : Nat) (s : State) : State :=
  let s1 := leavePick e.tag (takeOutPlaced b e (applyAndHold b e weight s))
  let s2 := recompute b (completeIfDone b s1)
  settleEnding b (reportChange b (s.build b).state s2)

end Sys2Proof.Machine
end

