-- ==== Sys2Proof/Machine/Claims.lean ====
section
/-!
DEFINITION. The claim unit as operations: eligibility, evaluation and bid, heard claims, losing early, the send
deadline, leaving RUN, and the close decision (chapter 2).
-/
namespace Sys2Proof.Machine

/-! ### Evaluation and bid (R18 to R23) -/

/-- One claim is better than another: lower score, or equal score and lower station number (R13). -/
def Heard.beats (a b : Heard) : Bool := a.score < b.score || (a.score == b.score && a.station < b.station)

/-- A claim is better than the best heard; any claim is better than none (R13). -/
def Heard.beatsBest (a : Heard) (best : Option Heard) : Bool :=
  match best with
  | none => true
  | some b => a.beats b

/-- A build is eligible to bid (R18). -/
def eligible (s : State) (b : BuildId) : Bool :=
  (s.build b).state == .opened && (s.build b).scanDue.isNone && (s.build b).scanInFlight.isNone &&
    (s.build b).plan.length < s.credits b && s.station == .run && s.txQueue.length < txCapacity

/-- A record may be evaluated (R19). -/
def evaluable (s : State) (r : TrackRecord) : Bool :=
  r.state == .unbid && !r.deadlinePassed && !tagPlanned r.tag s

/-- A build's candidate for a case: build, matched line, combined BASE flag, and the search's result (R21, R49). -/
structure Candidate where
  build : BuildId
  line : Nat
  base : Bool
  found : Found
  deriving DecidableEq, Repr

/-- Demand match and placement search on one build, whatever its eligibility (R21, R34). -/
def buildCandidate (s : State) (b : BuildId) (d : CaseDesc) : Option Candidate :=
  let x := s.build b
  match demandMatch x d.article, x.order with
  | some i, some o =>
    let base := d.base || ((x.lines[i]?).map DemandLine.base).getD false
    (search s.line o (reserveActive x) x.planned ⟨d.h, d.weight, base⟩ d.w d.d).map (fun f => ⟨b, i, base, f⟩)
  | _, _ => none

/-- The candidate of an eligible build (R21). -/
def eligibleCandidate (s : State) (b : BuildId) (d : CaseDesc) : Option Candidate :=
  if eligible s b then buildCandidate s b d else none

/-- The station's candidate: the lower score, build A at equal scores (R21). -/
def stationCandidate (s : State) (d : CaseDesc) : Option Candidate :=
  match eligibleCandidate s .A d, eligibleCandidate s .B d with
  | none, c => c
  | some a, none => some a
  | some a, some c => if c.found.score < a.found.score then some c else some a

/-- The station bids for its candidate (R22). -/
def wouldBid (s : State) (r : TrackRecord) (c : Candidate) : Bool :=
  (Heard.mk c.found.score s.number).beatsBest r.best && (!s.throttled || c.found.score < s.own2.throttleCut)

/-- The plan entry made for a candidate (R23, R77). -/
def entryFor (tag : Tag) (d : CaseDesc) (c : Candidate) (st : PlanState) : PlanEntry where
  tag := tag
  line := c.line
  foot := c.found.foot
  turned := c.found.turned
  base := c.found.base
  h := d.h
  weight := d.weight
  rating := d.rating
  baseFlag := c.base
  state := st
  uncertain := none

/-- Steps 1 to 3 of a bid: the entry at the tail of the plan list, the planned surface, the planned count (R23). -/
def addEntry (b : BuildId) (e : PlanEntry) (s : State) : State :=
  updateBuild b (fun x =>
    { x with
      plan := x.plan ++ [e]
      planned := x.planned.apply e.foot e.h e.weight e.rating
      lines := x.lines.modify e.line DemandLine.plan }) s

/-- A bid binds the candidate to the record (R23). -/
def bid (r : TrackRecord) (c : Candidate) (s : State) : State :=
  updateRecord r.tag (fun r => { r with state := .queued, bid := some ⟨c.build, c.found.score, true⟩ })
    (queueClaim r.tag c.found.score c.build (addEntry c.build (entryFor r.tag r.desc c .contested) s))

/-- Offer a record for evaluation (R19 to R23). -/
def evaluate (r : TrackRecord) (s : State) : State :=
  if evaluable s r then
    match stationCandidate s r.desc with
    | none => s
    | some c => if wouldBid s r c then bid r c s else s
  else s

/-! ### Taking a CONTESTED entry out without R30 (R28, R29, R32, R33) -/

/-- Remove a record's CONTESTED entry, as the caller moves the record; recomputation follows (R86, R87). -/
def removeContested (b : BuildId) (tag : Tag) (s : State) : State :=
  match findEntry b tag s with
  | none => s
  | some e => recompute b (takeOut b e s)

/-- Remove the entry that a record's own bid refers to (R86, R87). -/
def removeBidEntry (r : TrackRecord) (s : State) : State :=
  match r.bid with
  | none => s
  | some o => removeContested o.build r.tag s

/-- A heard claim is better than the own bid of a QUEUED or SENT record: LOST (R28). -/
def loseClaim (r : TrackRecord) (s : State) : State :=
  let s1 := updateRecord r.tag (fun r => { r.dropEntryRef with state := .lost }) s
  let s2 := removeBidEntry r s1
  count .claimLost (if r.state = .queued then abortClaim r.tag s2 else s2)

/-- A heard claim is compared with the best heard of a record (R13). -/
def TrackRecord.hear (c : Heard) (r : TrackRecord) : TrackRecord :=
  if c.beatsBest r.best then { r with best := some c } else r

/-- A claim is better than a record's own bid, which carries this station's number (R13, R33). -/
def beatsOwn (s : State) (c : Heard) (r : TrackRecord) : Bool :=
  match r.bid with
  | none => false
  | some o => c.beats ⟨o.score, s.number⟩

/-- A CLAIM handed on to the track list (R13, R28). -/
def hearClaim (tag : Tag) (c : Heard) (s : State) : State :=
  match findRecord tag s with
  | none => s
  | some r =>
    if c.beatsBest r.best then
      let s1 := updateRecord tag (TrackRecord.hear c) s
      if (r.state == .queued || r.state == .sent) && beatsOwn s c r then loseClaim r s1 else s1
    else s

/-! ### The send deadline (R12, R29) -/

/-- The send deadline of a record is taken (R12, R29). -/
def takeDeadline (tag : Tag) (s : State) : State :=
  let s1 := updateRecord tag (fun r => { r with deadlinePassed := true }) (unregister .sendDeadline tag s)
  match findRecord tag s with
  | none => s1
  | some r =>
    if r.state = .queued then
      if claimInTransmission tag s then abortClaim tag s1
      else removeBidEntry r (updateRecord tag TrackRecord.toUnbid (abortClaim tag s1))
    else s1

/-! ### Leaving RUN (R39) -/

/-- The tags of the CLAIM frames that are held and not in transmission. -/
def heldClaimTags (s : State) : List Tag :=
  s.txQueue.filterMap fun f =>
    match f.body with
    | .claim tag _ _ => if f.inTransmission then none else some tag
    | _ => none

/-- Every CLAIM not in transmission is aborted; the abort of one in transmission is asked (R27, R39). -/
def abortAllClaims (s : State) : State :=
  { s with
    txQueue :=
      (s.txQueue.filter fun f => !(f.isClaim && !f.inTransmission)).map fun f =>
        if f.isClaim then { f with noRetry := true } else f }

/-- The CONTESTED entries of a build whose claims are aborted, in plan order. -/
def abortedEntries (tags : List Tag) (x : Build) : List PlanEntry :=
  x.plan.filter (fun e => e.state == .contested && tags.contains e.tag)

/-- The entries of aborted claims leave a build's plan list in plan order, and their records return to UNBID (R39). -/
def takeOutAborted (b : BuildId) (tags : List Tag) (s : State) : State :=
  (abortedEntries tags (s.build b)).foldl
    (fun t e => updateRecord e.tag TrackRecord.toUnbid (takeOut b e t)) s

/-- A build is recomputed if the batch took an entry of it (R87). -/
def recomputeIf (touched : Bool) (b : BuildId) (s : State) : State := if touched then recompute b s else s

/-- The station leaves RUN: its held claims are aborted and their entries withdrawn as a batch, build A before build B
(R39, R87; log entry 23). -/
def leaveRun (s : State) : State :=
  let tags := heldClaimTags s
  let s1 := takeOutAborted .B tags (takeOutAborted .A tags (abortAllClaims s))
  recomputeIf (!(abortedEntries tags s.buildB).isEmpty) .B
    (recomputeIf (!(abortedEntries tags s.buildA).isEmpty) .A s1)

/-! ### The close decision (R31 to R34) -/

/-- The CLAIM frames for a tag in the receive buffer, in the order they are held (R31). Frame fields are read by the
caller. -/
def hearAll (claims : List Heard) (r : TrackRecord) : TrackRecord := claims.foldl (fun r c => r.hear c) r

/-- A counted claim is better than the own bid (R31, R33). -/
def outbid (s : State) (r : TrackRecord) : Bool :=
  match r.best with
  | none => false
  | some c => beatsOwn s c r

/-- A won case: its entry becomes WON and joins the pick order list (R33). -/
def winCase (r : TrackRecord) (b : BuildId) (s : State) : State :=
  joinPick r.tag b r.desc.stamp (updateBuild b (fun x =>
    { x with plan := x.plan.map (fun e => if e.tag == r.tag then { e with state := .won } else e) }) s)

/-- The fresh placement at close on the own bid's build, or FORFEIT with its MISS (R34). -/
def freshPlacement (r : TrackRecord) (b : BuildId) (s : State) : State :=
  let place : Option Candidate :=
    if (s.build b).state == .opened && (s.build b).plan.length < s.credits b then buildCandidate s b r.desc else none
  match place with
  | some c => joinPick r.tag b r.desc.stamp (addEntry b (entryFor r.tag r.desc c .won) s)
  | none => count .forfeit (offer (.miss r.tag .forfeit) s)

/-- The close decision of a record whose best heard counts every claim received before the close, before the record
leaves the list (R32 to R34). -/
def closeDecision (r : TrackRecord) (s : State) : State :=
  match r.state, r.bid with
  | .unbid, _ => s
  | .lost, _ => s
  | .queued, _ => removeBidEntry r (abortClaim r.tag s)
  | .sent, none => s
  | .sent, some o => if outbid s r then count .claimLost (removeBidEntry r s) else winCase r o.build s
  | .unbacked, none => s
  | .unbacked, some o =>
    if claimInTransmission r.tag s || outbid s r then s else freshPlacement r o.build s

end Sys2Proof.Machine
end

