-- ==== Sys2Proof/Machine/Records.lean ====
section
/-!
DEFINITION. The framing of robot-port records: the longest payload, and the bytes of a record that has not ended
(R177, 12 section 12.5).
-/
namespace Sys2Proof.Machine

/-- The longest payload of a robot-port record that the part receives (R177). -/
def maxRecordPayload : Nat := 48

/-- Bytes received after a start byte that do not yet make a whole record, nor a record the receiver abandons at its
length byte: kind, sequence and length first, then the payload, then the check byte (12 section 12.5). -/
def partialRecord (got : List Byte) : Bool :=
  match got with
  | _ :: _ :: len :: rest => len.toNat ≤ maxRecordPayload && rest.length ≤ len.toNat
  | _ => true

end Sys2Proof.Machine
end

