-- ==== Sys2Proof/Machine/Operands.lean ====
section
/-!
DEFINITION. Every field that a received frame or record carries: identifier fields, payload fields, and the tests by
which the line interface and the port receiver take or discard what they receive (12_frame_and_record_layouts.md).
-/
namespace Sys2Proof.Machine

/-! ### Bytes -/

/-- The byte at an offset of a payload. -/
def byteAt (p : List Byte) (i : Nat) : Byte := p.getD i 0

/-- A two-byte field, most significant byte first (R176). -/
def wordAt (p : List Byte) (i : Nat) : BitVec 16 := byteAt p i ++ byteAt p (i + 1)

/-- A four-byte field, most significant byte first (R176). -/
def longAt (p : List Byte) (i : Nat) : BitVec 32 := wordAt p i ++ wordAt p (i + 2)

/-! ### Depot-line identifiers (12 section 12.1) -/

/-- The kind of a frame, 0 to 7. -/
def kindOf (f : Frame) : Nat := f.ident.toNat / 256

/-- The detail of a frame, 0 to 255. -/
def detailOf (f : Frame) : Nat := f.ident.toNat % 256

/-- The code of a kind 3 or kind 4 frame. -/
def lowCode (f : Frame) : Nat := detailOf f % 16

/-- The target of a kind 3 frame, the station of a kind 4 frame, or the code of a kind 5 frame. -/
def highNibble (f : Frame) : Nat := detailOf f / 16

/-- The station number in a CLAIM's identifier (R175). -/
def claimStation (f : Frame) : Nat := detailOf f % 16

/-- A number is a station number (R155). -/
def isStationNumber (n : Nat) : Bool := 1 ≤ n && n ≤ 12

/-- The frame is of this kind and low code (kinds 3 and 4). -/
def isCode (kind code : Nat) (f : Frame) : Bool := kindOf f == kind && lowCode f == code

/-- The frame is a start-up frame of this code (kind 5: code × 16 + target). -/
def isStartUp (code : Nat) (f : Frame) : Bool := kindOf f == 5 && highNibble f == code

/-- The required payload length of a frame's kind and code; none for a kind or code that the part discards (R175, 12
sections 12.3 and 12.4; log entry 22 for the unlisted codes of kind 4). -/
def requiredLength (f : Frame) : Option Nat :=
  match kindOf f with
  | 0 => some 12
  | 1 => some 5
  | 2 => some 3
  | 3 =>
    match lowCode f with
    | 1 => some 11
    | 2 =>
      let n := (byteAt f.payload 2).toNat
      some (if 1 ≤ n ∧ n ≤ 4 then 3 + 3 * n else 3)
    | 3 => some 1
    | 4 => some 1
    | 5 => some 1
    | 8 => some 2
    | 9 => some 2
    | 12 => some 1
    | 13 => some 1
    | _ => none
  | 4 =>
    match lowCode f with
    | 0 => some 5
    | 1 => some 12
    | 2 => some 16
    | 3 => some 11
    | 4 => some 12
    | 5 => some 13
    | _ => some 0
  | 5 =>
    match highNibble f with
    | 0 => some 0
    | 1 => some 14
    | 2 => some 14
    | 3 => some 11
    | 4 => some 7
    | 5 => some 3
    | _ => none
  | _ => none

/-- The station detail of a CLAIM or MISS is not 0 and not 13 to 15 (R175; log entry 21 for a MISS). -/
def stationDetailOk (f : Frame) : Bool :=
  match kindOf f with
  | 1 => isStationNumber (claimStation f)
  | 2 => !(detailOf f == 0 || (13 ≤ detailOf f && detailOf f ≤ 15))
  | _ => true

/-- The line interface takes the frame and does not discard it (R175). -/
def frameAccepted (f : Frame) : Bool :=
  match requiredLength f with
  | none => false
  | some n => n ≤ f.payload.length && stationDetailOk f

/-- The station number that a station-sourced frame carries (R162). -/
def sourceStation (f : Frame) : Option Nat :=
  match kindOf f with
  | 1 => some (claimStation f)
  | 2 => some (detailOf f)
  | 4 => some (highNibble f)
  | 5 => if highNibble f == 4 || highNibble f == 5 then some (byteAt f.payload 0).toNat else none
  | _ => none

/-- A command frame is addressed to this station or to all stations (R175). -/
def addressedHere (f : Frame) (s : State) : Bool :=
  highNibble f == 0 || s.stationNumber == some (highNibble f)

/-- A STATION SETUP frame is addressed to this station (R157). -/
def setupTargetHere (f : Frame) (s : State) : Bool := s.stationNumber == some (detailOf f % 16)

/-! ### Payload fields -/

/-- The build that a command's build field names: 0 A, 1 B, any other value neither (R176). -/
def buildField (p : List Byte) : Option BuildId :=
  match (byteAt p 0).toNat with
  | 0 => some .A
  | 1 => some .B
  | _ => none

/-- A CASE NOTICE's descriptor as it is sent (12 section 12.3). -/
def noticeDesc (p : List Byte) : CaseDesc where
  article := (wordAt p 4).toNat
  w := (byteAt p 6).toNat / 16
  d := (byteAt p 6).toNat % 16
  h := (byteAt p 7).toNat
  weight := (wordAt p 8).toNat
  rating := (byteAt p 10).toNat
  base := (byteAt p 11).toNat % 2 == 1
  stamp := wordAt p 2

/-- The fields of a notice pass the field checks (R7). -/
def noticeFieldsOk (d : CaseDesc) : Bool :=
  1 ≤ d.article && d.article ≤ 4095 && 1 ≤ d.w && d.w ≤ 3 && 1 ≤ d.d && d.d ≤ 3 && d.h ≤ 120 && d.weight ≤ 1023

/-- A notice's height and weight moved into range (R7). -/
def clampNotice (d : CaseDesc) : CaseDesc := { d with h := max d.h 10, weight := max d.weight 1 }

/-- The claim that a CLAIM frame makes: station from the identifier, score from the payload (R175). -/
def heardOf (f : Frame) : Heard := ⟨(wordAt f.payload 2).toNat, claimStation f⟩

/-- The order header of an ORDER OPEN, clamped (R45). -/
def headerOf (p : List Byte) : OrderHeader where
  ref := longAt p 1
  priority := min (byteAt p 5).toNat 7
  lineCount := (byteAt p 6).toNat
  heightLimit := max 100 (min (wordAt p 7).toNat 400)
  reserve := min (byteAt p 9).toNat 6
  reserveRight := byteAt p 10 != 0

/-- The line count of an ORDER OPEN is 1 to 32 (R45). -/
def lineCountOk (p : List Byte) : Bool := 1 ≤ (byteAt p 6).toNat && (byteAt p 6).toNat ≤ 32

/-- Line k of an ORDER LINES frame: BASE flag and article code in two bytes, then the quantity (12 section 12.3); the
new line's counts are those of R47. -/
def orderLine (p : List Byte) (k : Nat) : DemandLine where
  article := (wordAt p (3 + 3 * k)).toNat % 32768
  base := 32768 ≤ (wordAt p (3 + 3 * k)).toNat
  ordered := (byteAt p (5 + 3 * k)).toNat
  planned := 0
  placed := 0

/-- The lines of an ORDER LINES frame. -/
def orderLinesOf (p : List Byte) : List DemandLine :=
  (List.range (byteAt p 2).toNat).map (orderLine p)

/-- A line's article code is 1 to 4095 and its quantity is not 0 (R46 check 4). -/
def DemandLine.valid (l : DemandLine) : Bool := 1 ≤ l.article && l.article ≤ 4095 && 1 ≤ l.ordered

/-- The values of a LINE SETUP, clamped (R158). -/
def lineSetupOf (p : List Byte) : LineSetup where
  closeDist := wordAt p 0
  guardDist := wordAt p 2
  supportTol := min (byteAt p 4).toNat 4
  wmax := (wordAt p 5).toNat
  cogFloor := (wordAt p 7).toNat
  limX := min (wordAt p 9).toNat 600
  limY := min (wordAt p 11).toNat 400
  verifyTol := max 1 (min (byteAt p 13).toNat 4)

/-- CLOSE_DIST lies below EYE_DIST − EYE_TOL, taken as a signed number (R158, R159). -/
def crossCheck (closeDist eyeDist eyeTol : Count) : Bool :=
  (closeDist.toNat : Int) < (eyeDist.toNat : Int) - (eyeTol.toNat : Int)

/-- A LINE SETUP passes its checks against the STATION SETUP 1 values held (R158). -/
def lineSetupOk (v : LineSetup) (held : Option Setup1) : Bool :=
  1 ≤ v.closeDist.toNat && v.closeDist.toNat < 32768 && v.guardDist.toNat < 32768 &&
    v.guardDist.toNat < v.closeDist.toNat &&
    (match held with
     | none => true
     | some h => crossCheck v.closeDist h.eyeDist h.eyeTol)

/-- The values of a STATION SETUP 1, clamped (R159). -/
def setup1Of (p : List Byte) : Setup1 where
  eyeDist := wordAt p 0
  eyeTol := wordAt p 2
  pickOpen := wordAt p 4
  pickClose := wordAt p 6
  creditsA := (byteAt p 8).toNat
  creditsB := (byteAt p 9).toNat
  placeBase100 := byteAt p 10 != 0
  placeCount := max 1 (byteAt p 11).toNat
  scanLimit := max 1 (byteAt p 12).toNat
  swapLimit := max 1 (byteAt p 13).toNat

/-- A STATION SETUP 1 passes its checks against the LINE SETUP values held (R159). -/
def setup1Ok (v : Setup1) (held : Option LineSetup) : Bool :=
  v.eyeDist.toNat < 32768 && v.eyeTol.toNat < 32768 && v.eyeDist.toNat + v.eyeTol.toNat < 32768 &&
    v.pickOpen.toNat < 32768 && v.pickClose.toNat < 32768 && v.pickOpen.toNat < v.pickClose.toNat &&
    v.creditsA ≤ 7 && v.creditsB ≤ 7 && v.creditsA + v.creditsB ≤ 8 && 1 ≤ v.creditsA + v.creditsB &&
    (match held with
     | none => true
     | some h => crossCheck h.closeDist v.eyeDist v.eyeTol)

/-- The values of a STATION SETUP 2, clamped; HYST is compared with the clamped THROTTLE_ON (R160). -/
def setup2Of (p : List Byte) : Setup2 where
  q1 := max 1 (min (byteAt p 0).toNat 7)
  q2 := max 1 (min (byteAt p 1).toNat 7)
  pauseLength := max 1 (byteAt p 2).toNat
  stallLatch := byteAt p 3 != 0
  throttleOn := min (byteAt p 4).toNat 8
  hyst := min (byteAt p 5).toNat (min (byteAt p 4).toNat 8 - 1)
  throttleCut := (wordAt p 6).toNat
  verifyStep := min (wordAt p 8).toNat 400
  weightTol := max 1 (min (byteAt p 10).toNat 50)

/-- The option byte of a query: 0 keep, any other value clear (R176). -/
def clearOption (p : List Byte) : Bool := byteAt p 0 != 0

/-! ### Robot-port records (R105, 12 section 12.5) -/

/-- One bit of the CRC-8: shift left, and subtract the polynomial 07H when a bit falls out. -/
def crcShift (c : Byte) : Byte := if c.msb then (c <<< 1) ^^^ 0x07#8 else c <<< 1

/-- One byte into the CRC-8, most significant bit first. -/
def crcByte (c b : Byte) : Byte :=
  crcShift (crcShift (crcShift (crcShift (crcShift (crcShift (crcShift (crcShift (c ^^^ b))))))))

/-- The CRC-8 over some bytes: initial value 0, no final inversion (12 section 12.5). -/
def crc8 (bytes : List Byte) : Byte := bytes.foldl crcByte 0

/-- The bytes of a record that its CRC-8 is formed over: kind, sequence, length, payload. -/
def crcBody (kind seq : Byte) (payload : List Byte) : List Byte :=
  kind :: seq :: BitVec.ofNat 8 payload.length :: payload

/-- The fixed payload length of a kind that the part receives (R105 tests 2 and 3). -/
def recordLength (kind : Byte) : Option Nat :=
  match kind.toNat with
  | 0x81 => some 3
  | 0x82 => some 48
  | 0x83 => some 0
  | 0x84 => some 1
  | _ => none

/-- A record passes the three tests of the receiver (R105). -/
def recordPasses (kind seq : Byte) (payload : List Byte) (check : Byte) : Bool :=
  crc8 (crcBody kind seq payload) == check && recordLength kind == some payload.length

/-- The outcomes of a PLACE DONE (12 section 12.5). -/
inductive PlaceOutcome where
  | placed
  | missed
  | dropped
  | refused
  deriving DecidableEq, Repr

/-- The outcome byte of a PLACE DONE; a byte outside 1 to 4 is no outcome (12 section 12.5). -/
def outcomeOf (p : List Byte) : Option PlaceOutcome :=
  match (byteAt p 0).toNat with
  | 1 => some .placed
  | 2 => some .missed
  | 3 => some .dropped
  | 4 => some .refused
  | _ => none

/-- The measured weight of a PLACE DONE. -/
def measuredWeight (p : List Byte) : Nat := (wordAt p 1).toNat

/-- The 24 measured heights of a SCAN DATA, tile 0 first (R138). -/
def measuredHeights (p : List Byte) : Tiles Nat := Vector.ofFn fun t => (wordAt p (2 * t.val)).toNat

end Sys2Proof.Machine
end

