-- ==== Sys2Proof/Machine/Frames.lean ====
section
/-!
DEFINITION. What the part sends, in bytes: the identifiers and payloads of its depot-line frames (12 sections 12.1 to
12.4, R176) and the request records of the robot port (12 section 12.5).
-/
namespace Sys2Proof.Machine

/-! ### Fields -/

/-- A number in one byte. -/
def byte1 (n : Nat) : List Byte := [BitVec.ofNat 8 n]

/-- A number in two bytes, most significant first (R176). -/
def bytes2 (n : Nat) : List Byte := [BitVec.ofNat 8 (n / 256), BitVec.ofNat 8 n]

/-- A number in four bytes, most significant first (R176). -/
def bytes4 (n : Nat) : List Byte := bytes2 (n / 65536) ++ bytes2 n

/-- The code of a build in a sent frame (R176). -/
def BuildId.code : BuildId → Nat
  | .A => 0
  | .B => 1

/-- The code of a build that may be absent: 255 (R176; log entry 11). -/
def buildCode : Option BuildId → Nat
  | some b => b.code
  | none => 255

/-- The code of a build state (R176). -/
def BuildState.code : BuildState → Nat
  | .unused => 0
  | .empty => 1
  | .loading => 2
  | .opened => 3
  | .held => 4
  | .closing => 5
  | .swapping => 6

/-- The code of a MISS reason (R176). -/
def MissReason.code : MissReason → Nat
  | .lapsed => 1
  | .absent => 2
  | .forfeit => 3
  | .withdrawn => 4
  | .notPicked => 5
  | .cancelled => 6

/-- The reply codes 0 to 8 (03 section 3.2). -/
def ReplyCode.code : ReplyCode → Nat
  | .accepted => 0
  | .notUsed => 1
  | .busy => 2
  | .data => 3
  | .sequence => 4
  | .locked => 5
  | .notReady => 6
  | .noOrder => 7
  | .noPrepare => 8

/-- The cause byte of a FAULT REPORT: 0 none, then the eight causes in the order of 11 section 11.1. -/
def causeCode : Option FaultCause → Nat
  | none => 0
  | some .placeTimeout => 1
  | some .verifyMismatch => 2
  | some .scanTimeout => 3
  | some .swapTimeout => 4
  | some .overload => 5
  | some .pause => 6
  | some .stall => 7
  | some .duplicateNumber => 8

/-- The station state codes of STATUS 1 (12 section 12.4). A SILENT station sends no STATUS frame, so it has none. -/
def StationState.code : StationState → Nat
  | .awaitConfig => 0
  | .run => 1
  | .paused => 2
  | .stalled => 3
  | .silent => 0

/-- The operation kinds of STATUS 1 (12 section 12.4). -/
def OpKind.code : OpKind → Nat
  | .place => 1
  | .scan => 2
  | .swap => 3

/-- The operation byte of STATUS 1: kind in the high four bits, build in the low four, 15 when the kind is none. -/
def operationByte : Option (OpKind × BuildId) → Nat
  | none => 15
  | some (k, b) => 16 * k.code + b.code

/-- The 24-bit word of a mismatch map: tile t in bit t (12 section 12.3). -/
def mapWord (m : Tiles Bool) : Nat := m.toList.foldr (fun b n => 2 * n + b.toNat) 0

/-! ### Identifiers (12 section 12.1) -/

/-- The identifier of a frame from a station, as a number (02 section 2.4, 12 section 12.1). -/
def TxBody.identNat (station : Nat) : TxBody → Nat
  | .claim _ score _ => 256 + score / 4096 * 16 + station
  | .miss _ _ => 512 + station
  | .reply _ _ _ _ _ => 1024 + 16 * station
  | .palletDone _ _ _ _ _ => 1024 + 16 * station + 1
  | .buildReport _ => 1024 + 16 * station + 2
  | .faultReport _ => 1024 + 16 * station + 3
  | .status1 _ => 1024 + 16 * station + 4
  | .status2 _ => 1024 + 16 * station + 5
  | .hello _ _ _ => 1280 + 64
  | .ready _ _ => 1280 + 80

/-! ### Payloads (12 sections 12.3 and 12.4) -/

/-- BUILD REPORT, 16 bytes (12 section 12.3). -/
def BuildReport.payload (r : BuildReport) : List Byte :=
  byte1 (128 * r.build.code + 16 * (r.planned % 8) + r.state.code) ++ bytes4 r.orderRef.toNat ++ bytes2 r.placed ++
    bytes2 r.opened ++ bytes4 (r.greatest % 512 * 8388608 + r.weight % 8388608) ++
    (byte1 (mapWord r.mismatch / 65536) ++ bytes2 (mapWord r.mismatch))

/-- FAULT REPORT, 11 bytes (12 section 12.4; log entry 9 for the tag bytes of an absent tag). -/
def FaultRecord.payload (f : FaultRecord) : List Byte :=
  [f.flags] ++ byte1 (causeCode f.cause) ++ byte1 (buildCode f.build) ++
    bytes2 (f.tag.getD Config.absentTag).toNat ++ bytes2 f.belt.toNat ++ bytes4 f.time.toNat

/-- STATUS 1, 12 bytes (12 section 12.4). -/
def Status1.payload (r : Status1) : List Byte :=
  byte1 r.station.code ++ [r.flags] ++ byte1 r.streak ++ byte1 r.cycles ++ byte1 (operationByte r.operation) ++
    byte1 r.trackLength ++ byte1 r.pickLength ++ byte1 r.planLengthA ++ byte1 r.planLengthB ++
    byte1 (16 * r.stateA.code + r.stateB.code) ++ [r.scanSwap] ++ [r.fault.flags]

/-- STATUS 2, 13 bytes: the counters in the order of R169. -/
def Counters.payload (c : Counters) : List Byte :=
  [c.trackFull, c.lateNotice, c.badNotice, c.dupNotice, c.claimLost, c.forfeit, c.absent, c.lapsed, c.eyeOverrun,
    c.txDrop, c.rxLost, c.linkError, c.weightDeviation].flatMap byte1

/-- The payload of a frame from a station, before padding. -/
def TxBody.payload (station : Nat) : TxBody → List Byte
  | .claim tag score build => bytes2 tag.toNat ++ bytes2 score ++ byte1 build.code
  | .miss tag reason => bytes2 tag.toNat ++ byte1 reason.code
  | .reply kind code build result next => [kind, code] ++ byte1 (buildCode build) ++ byte1 result.code ++ [next]
  | .palletDone build ref placed weight verified =>
    byte1 build.code ++ bytes4 ref.toNat ++ bytes2 placed ++ bytes4 weight ++ byte1 verified.toNat
  | .buildReport r => r.payload
  | .faultReport f => f.payload
  | .status1 r => r.payload
  | .status2 c => c.payload
  | .hello line setup1 setup2 =>
    byte1 station ++ [Config.revision] ++ bytes4 Config.serialNumber.toNat ++ [takenFlags line setup1 setup2]
  | .ready creditsA creditsB => byte1 station ++ byte1 creditsA ++ byte1 creditsB

/-- The next payload size that the line accepts (R176). -/
def paddedSize (n : Nat) : Nat := if n ≤ 8 then n else if n ≤ 12 then 12 else 16

/-- A payload padded with bytes of 0 (R176). -/
def padPayload (p : List Byte) : List Byte := p ++ List.replicate (paddedSize p.length - p.length) 0

/-- A frame as it goes on the line (R176). -/
def TxBody.frame (station : Nat) (b : TxBody) : Frame :=
  ⟨BitVec.ofNat 11 (b.identNat station), padPayload (b.payload station)⟩

/-! ### Choosing the next frame (R24) -/

/-- The place in the queue of the held frame with the lowest identifier, the earliest among equals (R24). -/
def lowestHeld (station : Nat) : List TxFrame → Option Nat
  | [] => none
  | f :: rest =>
    match lowestHeld station rest with
    | none => some 0
    | some i =>
      match rest[i]? with
      | none => some 0
      | some g => if g.body.identNat station < f.body.identNat station then some (i + 1) else some 0

/-! ### Robot-port requests (12 section 12.5) -/

/-- The wire bytes of a record: start byte, kind, sequence, length, payload, CRC-8. -/
def recordBytes (kind seq : Byte) (payload : List Byte) : List Byte :=
  0x7E#8 :: (crcBody kind seq payload ++ [crc8 (crcBody kind seq payload)])

/-- The payload of a PLACE request, 13 bytes (12 section 12.5, R112). -/
def placePayload (b : BuildId) (e : PlanEntry) (capture : Count) : List Byte :=
  bytes2 e.tag.toNat ++ byte1 b.code ++ byte1 e.foot.col ++ byte1 e.foot.row ++
    byte1 (e.turned.toNat + 128 * e.baseFlag.toNat) ++ bytes2 e.base ++ byte1 e.h ++ bytes2 e.weight ++
    bytes2 capture.toNat

end Sys2Proof.Machine
end

