-- ==== Sys2Proof/Machine/Port.lean ====
section
/-!
DEFINITION. The robot port, the failure streak counter and the verify unit as operations: the port arbiter and its
grants, the completion match, the outcomes of a PLACE, the streak step, and the results of scans (chapters 6, 7, 8).
-/
namespace Sys2Proof.Machine

/-! ### The port arbiter (R97, R109 to R112, R137, R148) -/

/-- The time limit of an operation, in ms (R108). -/
def limitOf (k : OpKind) (v : Setup1) : Nat :=
  match k with
  | .place => (if v.placeBase100 then 100 else 10) * v.placeCount
  | .scan => v.scanLimit * 100
  | .swap => v.swapLimit * 1000

/-- The kind byte of a request record (12 section 12.5). -/
def requestKind : OpKind → Byte
  | .place => 0x01#8
  | .scan => 0x02#8
  | .swap => 0x03#8

/-- A request is sent with the next sequence number: the record goes out, the in-flight record is filled and the
operation timer starts (R107, R108, R111, R112). -/
def sendRequest (k : OpKind) (b : BuildId) (tag : Option Tag) (payload : List Byte) (s : State) : State :=
  { s with
    seqCounter := s.seqCounter + 1
    inFlight := some ⟨k, s.seqCounter + 1, b, tag, s.timeBase, limitOf k s.own1, false⟩
    utx := some (recordBytes (requestKind k) (s.seqCounter + 1) payload) }

/-- The build holds a PLACING entry with the uncertain flag (R137). -/
def uncertainEntry (x : Build) : Option PlanEntry :=
  x.plan.find? (fun e => e.state == .placing && e.uncertain.isSome)

/-- A due scan of a kind goes in flight, plain or uncertain, and the mismatch map is cleared (R137). -/
def Build.startScan (k : ScanKind) (x : Build) : Build :=
  { x with
    scanDue := none
    scanInFlight := some ⟨k, (uncertainEntry x).isSome, false⟩
    mismatch := clearMap }

/-- A grant of SCAN (R111, R137). -/
def grantScan (b : BuildId) (k : ScanKind) (s : State) : State :=
  sendRequest .scan b none (byte1 b.code) (updateBuild b (Build.startScan k) s)

/-- A grant of SWAP (R111, R148). -/
def grantSwap (b : BuildId) (s : State) : State :=
  sendRequest .swap b none (byte1 b.code)
    (updateBuild b (fun x => { x with swapDue := false, swapInFlight := true }) s)

/-- A grant of PLACE for a pick entry with its eye match and its plan entry (R112). -/
def grantPlace (p : PickEntry) (m : EyeMatch) (e : PlanEntry) (s : State) : State :=
  sendRequest .place p.build (some p.tag) (placePayload p.build e m.capture)
    (unregister .pickClose p.tag (setPhase p.tag (.placing m)
      (updateBuild p.build (fun x =>
        { x with plan := x.plan.map (fun q => if q.tag == p.tag then { q with state := .placing } else q) }) s)))

/-- The ready check of an entry on the built surface (R97). -/
def readyCheck (v : LineSetup) (x : Build) (e : PlanEntry) : Bool :=
  baseOver x.built.height e.foot == e.base && supported x.built.height e.foot e.base v.supportTol

/-- The eye match of a pick entry that is ARRIVED with its window open. -/
def openWindow (p : PickEntry) : Option EyeMatch :=
  match p.phase with
  | .arrived m => if m.windowOpen then some m else none
  | .awaitEye => none
  | .placing _ => none

/-- What a pick entry offers to step 3 of the grant order: its match and plan entry, when it meets the conditions on
the entry and its build (R110). -/
def placeable (s : State) (p : PickEntry) : Option (EyeMatch × PlanEntry) :=
  match openWindow p, findEntry p.build p.tag s with
  | some m, some e =>
    let x := s.build p.build
    if readyCheck s.line x e && (x.state == .opened || x.state == .closing) && x.scanDue.isNone && x.scanInFlight.isNone
    then some (m, e) else none
  | _, _ => none

/-- Step 3 of the grant order: the first entry of the list that meets every condition (R110). -/
def firstPlace (s : State) : Option (PickEntry × EyeMatch × PlanEntry) :=
  s.pick.findSome? (fun p => (placeable s p).map (fun me => (p, me.1, me.2)))

/-- The port, the robot and the station let the arbiter grant (R109, R110). -/
def portReady (s : State) : Bool :=
  s.inFlight.isNone && s.robotReady && s.station != .awaitConfig && s.station != .silent

/-- One run of the port arbiter: at most one grant, in the order of R110. A command runs it once, at its end (log entry
13). -/
def runArbiter (s : State) : State :=
  if portReady s then
    match s.buildA.scanDue, s.buildB.scanDue with
    | some k, _ => grantScan .A k s
    | none, some k => grantScan .B k s
    | none, none =>
      if s.buildA.swapDue then grantSwap .A s
      else if s.buildB.swapDue then grantSwap .B s
      else if s.station = .run then
        match firstPlace s with
        | some (p, m, e) => grantPlace p m e s
        | none => s
      else s
  else s

/-! ### The failure streak (R124 to R128, R130) -/

/-- The quick limit in force (R126). -/
def quickLimitInForce (s : State) : Nat := if s.cycles = 0 then s.own2.q1 else s.own2.q2

/-- Reaching the quick limit: P rises, and the station pauses or stalls, with its fault (R127, R128, R130). -/
def reachQuickLimit (b : BuildId) (tag : Option Tag) (s : State) : State :=
  let p := saturate255 s.cycles
  let s1 := { s with cycles := p }
  if s.own2.stallLatch && p == 5 then
    recordFault .stall .stop (some b) tag (leaveRun { s1 with station := .stalled })
  else
    recordFault .pause .attn (some b) tag (leaveRun { s1 with station := .paused, pauseTimer := some s.timeBase })

/-- One placing failure: F rises, saturating at 15; in RUN the limit is tested (R124, R126). -/
def streakFailure (b : BuildId) (tag : Option Tag) (s : State) : State :=
  let s1 := { s with streak := min (s.streak + 1) 15 }
  if s1.station = .run ∧ s1.streak = quickLimitInForce s1 then reachQuickLimit b tag s1 else s1

/-- A PLACED resets F and P (R125). -/
def streakSuccess (s : State) : State := { s with streak := 0, cycles := 0 }

/-! ### Outcomes of a PLACE (R94, R115 to R119, R133, R134) -/

/-- The port becomes free (R113, R114). -/
def freePort (s : State) : State := { s with inFlight := none }

/-- The measured weight lies beyond WEIGHT_TOL of the announced weight (R94). -/
def deviates (tol measured announced : Nat) : Bool :=
  measured != 0 && tol * announced < (max measured announced - min measured announced) * 100

/-- The greatest built height has crossed into a new band of VERIFY_STEP (R133). -/
def stepCrossed (step before after : Nat) : Bool := 0 < step && before / step < after / step

/-- The step scan test after a PLACED (R133). -/
def stepScanTest (b : BuildId) (before : Nat) (s : State) : State :=
  if (s.build b).state == .opened && (s.build b).ending != .release &&
      stepCrossed s.own2.verifyStep before (greatestHeight (s.build b).built) then
    updateBuild b (Build.makeScanDue .step) s
  else s

/-- Outcome PLACED: deviation count, placement, step scan test, streak reset (R93, R94, R115, R125, R133). -/
def outcomePlaced (b : BuildId) (e : PlanEntry) (measured : Nat) (s : State) : State :=
  let s1 := if deviates s.own2.weightTol measured e.weight then count .weightDeviation s else s
  let s2 := takePlaced b e (if measured = 0 then e.weight else measured) s1
  streakSuccess (stepScanTest b (greatestHeight (s.build b).built) s2)

/-- Outcomes MISSED and REFUSED: withdrawal with MISS NOT PICKED, and the settling of an ending (R116, R118, R59). -/
def outcomeNotPicked (b : BuildId) (e : PlanEntry) (s : State) : State :=
  settleEnding b (withdrawAlone b .notPicked e s)

/-- The entry becomes uncertain (R85). -/
def markUncertain (b : BuildId) (tag : Tag) (h : Hypotheses) (s : State) : State :=
  updateBuild b (fun x =>
    { x with plan := x.plan.map (fun e => if e.tag == tag then { e with uncertain := some h } else e) }) s

/-- A DROPPED outcome or a place expiry: the entry becomes uncertain and an uncertain scan falls due; on a build whose
ending is RELEASE the entry is removed at once and the release may settle (R59, R117, R119, R134). -/
def becomeUncertain (b : BuildId) (e : PlanEntry) (h : Hypotheses) (s : State) : State :=
  if (s.build b).ending = .release then settleEnding b (recompute b (dropEntry b e s))
  else updateBuild b (Build.makeScanDue .uncertain) (markUncertain b e.tag h s)

/-- The outcome of a matched PLACE DONE, for the entry it names (R115 to R118, R124, R125). -/
def takeOutcome (o : PlaceOutcome) (measured : Nat) (b : BuildId) (e : PlanEntry) (s : State) : State :=
  match o with
  | .placed => outcomePlaced b e measured s
  | .missed => streakFailure b (some e.tag) (outcomeNotPicked b e s)
  | .refused => streakFailure b (some e.tag) (outcomeNotPicked b e s)
  | .dropped => streakFailure b (some e.tag) (becomeUncertain b e .notPlacedOnly s)

/-- The plan entry of an in-flight PLACE: in PLACING from its grant on (R84, R108, R112; log entry 32). -/
def flightEntry (f : InFlight) (s : State) : Option PlanEntry :=
  match f.tag with
  | none => none
  | some t => (s.build f.build).plan.find? (fun e => e.tag == t && e.state == .placing)

/-- A completion matches the in-flight record by kind and sequence number (R113). -/
def matchesFlight (k : OpKind) (seq : Byte) (s : State) : Option InFlight :=
  match s.inFlight with
  | none => none
  | some f => if f.kind == k && f.seq == seq then some f else none

/-- A record that fails a test, or a completion that matches nothing (R105, R113). -/
def linkError (s : State) : State := count .linkError s

/-! ### The results of a scan (R138 to R144) -/

/-- The tiles whose measured height differs from the expected one by more than VERIFY_TOL (R138, R142). -/
def mismatches (tol : Nat) (expected measured : Tiles Nat) : Tiles Bool :=
  Vector.ofFn fun t => tol < max measured[t] expected[t] - min measured[t] expected[t]

/-- All 24 tiles match (R139). -/
def allMatch (m : Tiles Bool) : Bool := m.toList.all (fun b => !b)

/-- The heights expected if the entry were placed on the built surface (R138). -/
def expectedPlaced (x : Build) (e : PlanEntry) : Tiles Nat :=
  Vector.ofFn fun t => if covers e.foot t then baseOver x.built.height e.foot + e.h else x.built.height[t]

/-- Write a build's mismatch map (R142). -/
def setMap (b : BuildId) (m : Tiles Bool) (s : State) : State := updateBuild b (fun x => { x with mismatch := m }) s

/-- A matching rescan: where the build goes from HELD (R141). -/
def Build.leaveHeld (x : Build) : Build :=
  if x.holdOrigin = .closing ∨ orderComplete x then { x with holdOrigin := .noOrigin }.enterClosing
  else { x with state := .opened, holdOrigin := .noOrigin }

/-- A matching rescan takes a build out of HELD; an entry to OPEN triggers a sweep (R141, R54). -/
def rescanMatch (b : BuildId) (s : State) : State :=
  let s1 := updateBuild b Build.leaveHeld s
  reportBuild b (if (s1.build b).state = .opened then triggerSweep s1 else s1)

/-- A matching final scan of a build in CLOSING (R146). -/
def finalMatch (b : BuildId) (s : State) : State :=
  reportBuild b (updateBuild b (fun x => { x with state := .swapping, swapDue := true }) (palletDone b true s))

/-- A scan that mismatches: the fault, then OPEN and CLOSING enter HELD, and HELD offers a report (R139, R140, R42). -/
def scanMismatch (b : BuildId) (tag : Option Tag) (s : State) : State :=
  let s1 := recordFault .verifyMismatch .attn (some b) tag s
  match (s.build b).state with
  | .opened => enterHeld b .noOrigin s1
  | .closing => enterHeld b .closing s1
  | .held => reportBuild b s1
  | .unused => s1
  | .empty => s1
  | .loading => s1
  | .swapping => s1

/-- The result of a plain scan (R139, R142). A build in EMPTY or SWAPPING is not compared. -/
def plainResult (b : BuildId) (k : ScanKind) (measured : Tiles Nat) (s : State) : State :=
  let x := s.build b
  if x.state == .empty || x.state == .swapping then s
  else
    let m := mismatches s.line.verifyTol x.built.height measured
    let s1 := setMap b m s
    if allMatch m then
      if k == .final && x.state == .closing then finalMatch b s1
      else if k == .rescan && x.state == .held && x.ending == .noEnding then rescanMatch b s1
      else s1
    else scanMismatch b none s1

/-- After a resolution, an uncertain rescan takes a build still in HELD with no ending out of it (R140, R141). -/
def afterResolution (b : BuildId) (k : ScanKind) (overloaded : Bool) (s : State) : State :=
  if k == .rescan && (s.build b).state == .held && (s.build b).ending == .noEnding && !overloaded then rescanMatch b s
  else s

/-- The result of an uncertain scan on its entry: placed, not placed, or neither (R96, R140, R142). -/
def uncertainResult (b : BuildId) (k : ScanKind) (e : PlanEntry) (measured : Tiles Nat) (s : State) : State :=
  let x := s.build b
  let mPlaced := mismatches s.line.verifyTol (expectedPlaced x e) measured
  let mNot := mismatches s.line.verifyTol x.built.height measured
  if e.uncertain = some .placedOrNot ∧ allMatch mPlaced then
    afterResolution b k (anyClamped x.built e.foot e.weight) (takePlaced b e e.weight (setMap b mPlaced s))
  else if allMatch mNot then
    afterResolution b k false (settleEnding b (withdrawAlone b .notPicked e (setMap b mNot s)))
  else scanMismatch b (some e.tag) (setMap b (if e.uncertain = some .placedOrNot then mPlaced else mNot) s)

/-- The scan of a build is no longer in flight. -/
def endScanFlight (b : BuildId) (s : State) : State := updateBuild b (fun x => { x with scanInFlight := none }) s

/-- A scan of a build that was in OPEN has ended and the build is still in OPEN: a sweep (R20; log entry 27). -/
def sweepIfStillOpen (b : BuildId) (before : BuildState) (s : State) : State :=
  if before = .opened ∧ (s.build b).state = .opened then triggerSweep s else s

/-- The result of a scan that was in flight, unless its release mark is set (R139, R140, R144; log entry 30). -/
def scanResult (b : BuildId) (flight : ScanFlight) (measured : Tiles Nat) (s : State) : State :=
  if flight.release then s
  else
    match (if flight.uncertain then uncertainEntry (s.build b) else none) with
    | some e => uncertainResult b flight.kind e measured s
    | none => plainResult b flight.kind measured s

/-- The expiry of a scan that was in flight, unless its release mark is set (R143, R144). -/
def scanExpired (b : BuildId) (flight : ScanFlight) (s : State) : State :=
  if flight.release then s
  else
    let s1 := recordFault .scanTimeout .attn (some b) ((uncertainEntry (s.build b)).map PlanEntry.tag) s
    match (s.build b).state with
    | .opened => enterHeld b .noOrigin s1
    | .closing => enterHeld b .closing s1
    | .held => s1
    | .unused => s1
    | .empty => s1
    | .loading => s1
    | .swapping => s1

end Sys2Proof.Machine
end

