-- ==== Sys2Proof/Machine/Commands.lean ====
section
/-!
DEFINITION. How the receive buffer hands a frame on to a command, how a command frame touches the clear pairing, and
how a command is answered (R5, R43, R164, R175).
-/
namespace Sys2Proof.Machine

/-- The receive buffer hands its oldest frame on and removes it, when the frame is the command's; otherwise the command
has no frame to take and changes nothing (R5; log entries 2 and 6). -/
def handOn (isMine : Frame → Bool) (act : Frame → State → State) (s : State) : State :=
  match s.rxBuffer with
  | [] => s
  | f :: rest => if isMine f then act f { s with rxBuffer := rest } else s

/-- A command frame: ignored in SILENT or when addressed to another station; otherwise it ends a live prepare and is
taken (R43, R164, R175). -/
def onCommand (f : Frame) (act : State → State) (s : State) : State :=
  if s.station = .silent ∨ !addressedHere f s then s else act { s with pairing := none }

/-- The next line index that a reply carries: of the named build for ORDER LINES, 0 otherwise (12 section 12.3; log
entry 10). -/
def replyIndex (code : Nat) (b : Option BuildId) (s : State) : Byte :=
  if code = 2 then
    match b with
    | some b => BitVec.ofNat 8 (s.build b).nextLine
    | none => Config.indexOfNoBuild
  else 0

/-- Answer a command frame of kind 3 (03 section 3.2). -/
def answer (code : Nat) (b : Option BuildId) (r : ReplyCode) (s : State) : State :=
  offer (.reply 3 (BitVec.ofNat 8 code) b r (replyIndex code b s)) s

/-- Answer a start-up frame of kind 5 (R157). -/
def answerSetup (code : Nat) (r : ReplyCode) (s : State) : State :=
  offer (.reply 5 (BitVec.ofNat 8 code) none r 0) s

/-- Checks 1 to 3 of a build command, and a build command sent to all stations (R43). -/
def onBuildCommand (code : Nat) (f : Frame) (act : BuildId → State → State) (s : State) : State :=
  if highNibble f = 0 then s
  else if s.station = .awaitConfig then answer code (buildField f.payload) .notReady s
  else
    match buildField f.payload with
    | none => answer code none .data s
    | some b => if (s.build b).state = .unused then answer code (some b) .notUsed s else act b s

/-- A build command from the receive buffer (R5, R43, R164). -/
def buildCommand (code : Nat) (act : Frame → BuildId → State → State) (s : State) : State :=
  handOn (isCode 3 code) (fun f => onCommand f (onBuildCommand code f (act f))) s

end Sys2Proof.Machine
end

