-- ==== Sys2Proof/Machine/Belt.lean ====
section
/-!
DEFINITION. The meanings of the commands of the belt side: ENCODER_PULSE, SEND_DEADLINE, CLOSE_POINT, EYE_WINDOW_END,
PICK_OPEN_POINT, PICK_CLOSE_POINT, EYE_EDGE and EYE_CAPTURE (chapters 1, 2 and 6).
-/
namespace Sys2Proof.Machine

/-- ENCODER_PULSE: the counter gains one, and each registered position that it now equals raises its event (R1, R3). -/
def encoderPulse (s : State) : State :=
  { s with
    belt := s.belt + 1
    positions := s.positions.map (fun p => if p.value = s.belt + 1 then { p with raised := true } else p) }

/-- SEND_DEADLINE: a raised send deadline is taken (R12, R29). -/
def sendDeadline (tag : Tag) (s : State) : State :=
  if isRaised .sendDeadline tag s then takeDeadline tag s else s

/-- The CLAIM frames for a tag still held in the receive buffer, in the order they are held (R31). -/
def bufferedClaims (tag : Tag) (s : State) : List Heard :=
  s.rxBuffer.filterMap fun f => if kindOf f = 1 ∧ wordAt f.payload 0 = tag then some (heardOf f) else none

/-- The close of a record: the close decision on every claim received, then the record leaves the list (R14, R31). -/
def closeRecord (tag : Tag) (s : State) : State :=
  match findRecord tag s with
  | none => unregister .closePoint tag s
  | some r => removeRecord tag (closeDecision (hearAll (bufferedClaims tag s) r) s)

/-- CLOSE_POINT: a raised close point is taken; a send deadline of the record that is raised too is taken before it
(R4, R14, R31 to R34; log entry 4). -/
def closePoint (tag : Tag) (s : State) : State :=
  if isRaised .closePoint tag s then
    closeRecord tag (if isRaised .sendDeadline tag s then takeDeadline tag s else s)
  else s

/-- A WON case is given up: its plan entry is withdrawn with a MISS, and the build is recomputed (R86, R87). -/
def giveUp (tag : Tag) (reason : MissReason) (s : State) : State :=
  match findPick tag s with
  | none => s
  | some p =>
    match findEntry p.build tag s with
    | none => s
    | some e => withdrawAlone p.build reason e s

/-- EYE_WINDOW_END: a raised eye window end is taken: ABSENT (R102). -/
def eyeWindowEnd (tag : Tag) (s : State) : State :=
  if isRaised .eyeWindowEnd tag s then
    giveUp tag .absent (count .absent (unregister .eyeWindowEnd tag s))
  else s

/-- The window of an ARRIVED entry opens (R103). -/
def PickPhase.openIt : PickPhase → PickPhase
  | .awaitEye => .awaitEye
  | .arrived m => .arrived { m with windowOpen := true }
  | .placing m => .placing m

/-- PICK_OPEN_POINT: a raised pick open point is taken: the window opens and the arbiter runs (R103). -/
def pickOpenPoint (tag : Tag) (s : State) : State :=
  if isRaised .pickOpen tag s then
    let s1 := unregister .pickOpen tag s
    runArbiter { s1 with pick := s1.pick.map (fun p => if p.tag == tag then { p with phase := p.phase.openIt } else p) }
  else s

/-- PICK_CLOSE_POINT: a raised pick close point is taken: LAPSED (R104). -/
def pickClosePoint (tag : Tag) (s : State) : State :=
  if isRaised .pickClose tag s then
    giveUp tag .lapsed (count .lapsed (unregister .pickClose tag s))
  else s

/-- EYE_EDGE: the empty latch takes the counter; a full latch keeps its capture and the edge is lost (R16). -/
def eyeEdge (s : State) : State :=
  match s.eyeLatch with
  | none => { s with eyeLatch := some s.belt }
  | some _ => count .eyeOverrun s

/-- The first entry in AWAIT EYE whose eye window contains a capture (R101). -/
def eyeCandidate (c : Count) (s : State) : Option PickEntry :=
  s.pick.find? (fun p => p.phase == .awaitEye && insideWindow c p.winStart p.winEnd)

/-- A matched entry enters ARRIVED and registers its pick points; an open point already reached is taken at once (R101,
R103; log entry 31 for a close point already reached). -/
def arrive (p : PickEntry) (c : Count) (s : State) : State :=
  let openAt := c + s.own1.pickOpen
  let closeAt := c + s.own1.pickClose
  let openNow := reached s.belt openAt
  let s1 := setPhase p.tag (.arrived ⟨c, openAt, closeAt, openNow⟩) (unregister .eyeWindowEnd p.tag s)
  let s2 := register .pickClose p.tag closeAt (if openNow then s1 else register .pickOpen p.tag openAt s1)
  if openNow then runArbiter s2 else s2

/-- The station matches eye captures: in RUN, PAUSED and STALLED (R101, R121). -/
def matchesCaptures (st : StationState) : Bool :=
  match st with
  | .run => true
  | .paused => true
  | .stalled => true
  | .awaitConfig => false
  | .silent => false

/-- EYE_CAPTURE: the pick order list takes the capture from the latch and matches or discards it (R17, R101). -/
def eyeCapture (s : State) : State :=
  match s.eyeLatch with
  | none => s
  | some c =>
    let s1 := { s with eyeLatch := none }
    if matchesCaptures s.station then
      match eyeCandidate c s1 with
      | none => s1
      | some p => arrive p c s1
    else s1

/-! ### The meanings -/

/-- ENCODER_PULSE. -/
def execEncoderPulse (s : State) : Result := done (encoderPulse s)

/-- SEND_DEADLINE. -/
def execSendDeadline (tag : Tag) (s : State) : Result := done (sendDeadline tag s)

/-- CLOSE_POINT. -/
def execClosePoint (tag : Tag) (s : State) : Result := done (closePoint tag s)

/-- EYE_WINDOW_END. -/
def execEyeWindowEnd (tag : Tag) (s : State) : Result := done (eyeWindowEnd tag s)

/-- PICK_OPEN_POINT. -/
def execPickOpenPoint (tag : Tag) (s : State) : Result := done (pickOpenPoint tag s)

/-- PICK_CLOSE_POINT. -/
def execPickClosePoint (tag : Tag) (s : State) : Result := done (pickClosePoint tag s)

/-- EYE_EDGE. -/
def execEyeEdge (s : State) : Result := done (eyeEdge s)

/-- EYE_CAPTURE. -/
def execEyeCapture (s : State) : Result := done (eyeCapture s)

end Sys2Proof.Machine
end

