-- ==== Sys2Proof/Machine/Orders.lean ====
section
/-!
DEFINITION. The meanings of ORDER_OPEN, ORDER_LINES, ORDER_CANCEL, BUILD_RESUME and BUILD_RELEASE (chapter 3, R151,
R152).
-/
namespace Sys2Proof.Machine

/-! ### ORDER OPEN (R44, R45) -/

/-- A header is stored and loading starts: no lines, next line index 0, LOADING (R44). -/
def Build.load (o : OrderHeader) (x : Build) : Build :=
  { x with state := .loading, order := some o, lines := [], nextLine := 0 }

/-- ORDER OPEN on a used build (R44, R45). -/
def orderOpenOn (f : Frame) (b : BuildId) (s : State) : State :=
  let taken := updateBuild b (Build.load (headerOf f.payload)) s
  match (s.build b).state with
  | .empty =>
    if lineCountOk f.payload then reportBuild b (answer 1 (some b) .accepted taken) else answer 1 (some b) .data s
  | .loading => if lineCountOk f.payload then answer 1 (some b) .accepted taken else answer 1 (some b) .data s
  | .unused => s
  | .opened => answer 1 (some b) .busy s
  | .held => answer 1 (some b) .busy s
  | .closing => answer 1 (some b) .busy s
  | .swapping => answer 1 (some b) .busy s

/-- ORDER_OPEN: the receive buffer hands on an ORDER OPEN (R43 to R45). -/
def orderOpen (s : State) : State := buildCommand 1 orderOpenOn s

/-! ### ORDER LINES (R46, R47) -/

/-- The checks of R46 on a build in LOADING, in their order. -/
def orderLinesCheck (p : List Byte) (x : Build) : Option ReplyCode :=
  let first := (byteAt p 1).toNat
  let n := (byteAt p 2).toNat
  if first ≠ x.nextLine then some .sequence
  else if n = 0 ∨ 4 < n then some .data
  else if (x.order.map OrderHeader.lineCount).getD 0 < first + n then some .data
  else if (orderLinesOf p).all DemandLine.valid then none
  else some .data

/-- The lines are appended and the next line index rises; the last line opens the build (R47). -/
def Build.addLines (ls : List DemandLine) (x : Build) : Build :=
  { x with
    lines := x.lines ++ ls
    nextLine := x.nextLine + ls.length
    state := if x.nextLine + ls.length = (x.order.map OrderHeader.lineCount).getD 0 then .opened else x.state }

/-- ORDER LINES on a used build (R46, R47). -/
def orderLinesOn (f : Frame) (b : BuildId) (s : State) : State :=
  match (s.build b).state with
  | .loading =>
    match orderLinesCheck f.payload (s.build b) with
    | some r => answer 2 (some b) r s
    | none =>
      let s1 := answer 2 (some b) .accepted (updateBuild b (Build.addLines (orderLinesOf f.payload)) s)
      if (s1.build b).state = .opened then runArbiter (triggerSweep (reportBuild b s1)) else s1
  | .empty => answer 2 (some b) .noOrder s
  | .unused => s
  | .opened => answer 2 (some b) .busy s
  | .held => answer 2 (some b) .busy s
  | .closing => answer 2 (some b) .busy s
  | .swapping => answer 2 (some b) .busy s

/-- ORDER_LINES: the receive buffer hands on an ORDER LINES (R43, R46, R47). -/
def orderLines (s : State) : State := buildCommand 2 orderLinesOn s

/-! ### ORDER CANCEL (R55 to R57) -/

/-- A cancel in LOADING: the header and lines are discarded and the build enters EMPTY (R55). -/
def Build.unload (x : Build) : Build := { x.dropOrder with state := .empty }

/-- An ending has settled with a final scan or a swap due, so the arbiter runs; one that waits, or that has emptied the
build, makes nothing due (R57, R60, R109). -/
def runIfDue (b : BuildId) (s : State) : State :=
  match (s.build b).state with
  | .closing => runArbiter s
  | .swapping => runArbiter s
  | .unused => s
  | .empty => s
  | .loading => s
  | .opened => s
  | .held => s

/-- An accepted cancel on a build in OPEN or HELD: the reply, the ending, the withdrawals, and the settling (R56, R57).
-/
def acceptCancel (b : BuildId) (s : State) : State :=
  let s1 := answer 3 (some b) .accepted (updateBuild b (fun x => { x with ending := .cancel }) s)
  runIfDue b (settleEnding b (withdrawBatch b .cancelled s1))

/-- ORDER CANCEL on a used build (R55). -/
def orderCancelOn (_f : Frame) (b : BuildId) (s : State) : State :=
  let x := s.build b
  match x.state with
  | .loading => reportBuild b (answer 3 (some b) .accepted (updateBuild b Build.unload s))
  | .opened => if x.ending = .noEnding then acceptCancel b s else answer 3 (some b) .busy s
  | .held =>
    if x.order.isNone then answer 3 (some b) .noOrder s
    else if x.ending = .noEnding then acceptCancel b s
    else answer 3 (some b) .busy s
  | .empty => answer 3 (some b) .noOrder s
  | .unused => s
  | .closing => answer 3 (some b) .busy s
  | .swapping => answer 3 (some b) .busy s

/-- ORDER_CANCEL: the receive buffer hands on an ORDER CANCEL (R43, R55 to R57). -/
def orderCancel (s : State) : State := buildCommand 3 orderCancelOn s

/-! ### BUILD RESUME (R54) -/

/-- A rescan of the build is due or in flight (R54). -/
def rescanPending (x : Build) : Bool :=
  x.scanDue == some .rescan || x.scanInFlight.any (fun f => f.kind == .rescan)

/-- BUILD RESUME on a used build (R54). -/
def buildResumeOn (_f : Frame) (b : BuildId) (s : State) : State :=
  let x := s.build b
  match x.state with
  | .held =>
    if x.order.isNone then answer 4 (some b) .noOrder s
    else if x.ending ≠ .noEnding ∨ rescanPending x then answer 4 (some b) .busy s
    else runArbiter (updateBuild b (Build.makeScanDue .rescan) (answer 4 (some b) .accepted s))
  | .empty => answer 4 (some b) .noOrder s
  | .unused => s
  | .loading => answer 4 (some b) .busy s
  | .opened => answer 4 (some b) .busy s
  | .closing => answer 4 (some b) .busy s
  | .swapping => answer 4 (some b) .busy s

/-- BUILD_RESUME: the receive buffer hands on a BUILD RESUME (R43, R54). -/
def buildResume (s : State) : State := buildCommand 4 buildResumeOn s

/-! ### BUILD RELEASE (R58 to R60, R136, R144) -/

/-- The robot port has a PLACE in flight for an entry: one without the discard mark (R59, R60). -/
def placeInFlight (b : BuildId) (e : PlanEntry) (s : State) : Bool :=
  match s.inFlight with
  | none => false
  | some f => f.kind == .place && f.build == b && f.tag == some e.tag && !f.discard

/-- The uncertain entries that a release removes: PLACING with no PLACE in flight (R59). -/
def strandedEntries (b : BuildId) (s : State) : List PlanEntry :=
  (s.build b).plan.filter (fun e => e.state == .placing && !placeInFlight b e s)

/-- The ending becomes RELEASE, a due scan is dropped, a scan in flight gets its release mark (R59, R136, R144). -/
def Build.beginRelease (x : Build) : Build :=
  { x with
    ending := .release
    scanDue := none
    scanInFlight := x.scanInFlight.map (fun f => { f with release := true }) }

/-- The entries a release removes are gone, in plan order, the CONTESTED and WON ones first; one recomputation follows
if any was (R59, R87). -/
def releaseEntries (b : BuildId) (s : State) : State :=
  let stranded := strandedEntries b s
  let s1 := stranded.foldl (fun t e => dropEntry b e t) (withdrawMovable b .cancelled s)
  if (movable (s.build b)).isEmpty && stranded.isEmpty then s1 else recompute b s1

/-- An accepted release: the reply, the ending, the removals, and the settling (R59, R60). -/
def acceptRelease (b : BuildId) (s : State) : State :=
  let s1 := answer 5 (some b) .accepted (updateBuild b Build.beginRelease s)
  runIfDue b (settleEnding b (releaseEntries b s1))

/-- BUILD RELEASE on a used build (R58). -/
def buildReleaseOn (_f : Frame) (b : BuildId) (s : State) : State :=
  let x := s.build b
  match x.state with
  | .opened => if x.ending = .release then answer 5 (some b) .busy s else acceptRelease b s
  | .held => if x.ending = .release then answer 5 (some b) .busy s else acceptRelease b s
  | .empty => answer 5 (some b) .noOrder s
  | .unused => s
  | .loading => answer 5 (some b) .busy s
  | .closing => answer 5 (some b) .busy s
  | .swapping => answer 5 (some b) .busy s

/-- BUILD_RELEASE: the receive buffer hands on a BUILD RELEASE (R43, R58 to R60). -/
def buildRelease (s : State) : State := buildCommand 5 buildReleaseOn s

/-! ### The meanings -/

/-- ORDER_OPEN. -/
def execOrderOpen (s : State) : Result := done (orderOpen s)

/-- ORDER_LINES. -/
def execOrderLines (s : State) : Result := done (orderLines s)

/-- ORDER_CANCEL. -/
def execOrderCancel (s : State) : Result := done (orderCancel s)

/-- BUILD_RESUME. -/
def execBuildResume (s : State) : Result := done (buildResume s)

/-- BUILD_RELEASE. -/
def execBuildRelease (s : State) : Result := done (buildRelease s)

end Sys2Proof.Machine
end

