-- ==== Sys2Proof/Machine/Queries.lean ====
section
/-!
DEFINITION. The meanings of STATUS_QUERY, FAULT_QUERY and RUN_BEACON_BLINK (chapter 11).
-/
namespace Sys2Proof.Machine

/-! ### STATUS QUERY (R170, R171) -/

/-- The scan marks of a build (R170). -/
def scanMarks (x : Build) : DueMarks := ⟨x.scanDue.isSome, x.scanInFlight.isSome⟩

/-- The swap marks of a build (R170). -/
def swapMarks (x : Build) : DueMarks := ⟨x.swapDue, x.swapInFlight⟩

/-- STATUS 1 as the events before the query left the station (R170). -/
def status1Of (s : State) : Status1 where
  station := s.station
  lineTaken := s.lineSetup.isSome
  setup1Taken := s.setup1.isSome
  setup2Taken := s.setup2.isSome
  throttled := s.throttled
  throttleSeen := s.throttleSeen
  robotReady := s.robotReady
  streak := s.streak
  cycles := s.cycles
  operation := s.inFlight.map (fun f => (f.kind, f.build))
  trackLength := s.track.length
  pickLength := s.pick.length
  planLengthA := s.buildA.plan.length
  planLengthB := s.buildB.plan.length
  stateA := s.buildA.state
  stateB := s.buildB.state
  scanA := scanMarks s.buildA
  scanB := scanMarks s.buildB
  swapA := swapMarks s.buildA
  swapB := swapMarks s.buildB
  fault := s.fault

/-- Both STATUS frames are offered; with the clear option and both placed, the counters and THROTTLE SEEN are cleared
(R38, R170, R171). -/
def answerStatus (clearing : Bool) (s : State) : State :=
  let s1 := offer (.status1 (status1Of s)) s
  let s2 := offer (.status2 s.counters) s1
  if clearing && canOffer s && canOffer s1 then { s2 with counters := Counters.zero, throttleSeen := false } else s2

/-- STATUS_QUERY (R164, R170). -/
def statusQuery (s : State) : State :=
  handOn (isCode 3 12) (fun f => onCommand f (answerStatus (clearOption f.payload))) s

/-! ### FAULT QUERY (R168) -/

/-- The FAULT REPORT is offered; with the clear option and the report placed, the record is cleared (R168). -/
def answerFault (clearing : Bool) (s : State) : State :=
  let s1 := offer (.faultReport s.fault) s
  if clearing && canOffer s then { s1 with fault := FaultRecord.clear } else s1

/-- FAULT_QUERY (R164, R168). -/
def faultQuery (s : State) : State :=
  handOn (isCode 3 13) (fun f => onCommand f (answerFault (clearOption f.payload))) s

/-! ### RUN BEACON BLINK (R172) -/

/-- The next moment at which the RUN beacon's blink changes: the time base modulo 1000 reaches 500, or falls below it.
The last on half before the time base wraps goes on into the first one after it (R172; log entry 5). -/
def nextBlink (t : Millis) : Millis :=
  if 4294967000 ≤ t.toNat then 500
  else if t.toNat % 1000 < 500 then t + BitVec.ofNat 32 (500 - t.toNat % 1000)
  else t + BitVec.ofNat 32 (1000 - t.toNat % 1000)

/-- RUN_BEACON_BLINK: in RUN with no build in OPEN the time base comes to the next change of the blink, and the BRUN
line follows it (R172). -/
def runBeaconBlink (s : State) : State :=
  if s.station = .run ∧ !anyOpen s then { s with timeBase := nextBlink s.timeBase } else s

/-! ### The meanings -/

/-- STATUS_QUERY. -/
def execStatusQuery (s : State) : Result := done (statusQuery s)

/-- FAULT_QUERY. -/
def execFaultQuery (s : State) : Result := done (faultQuery s)

/-- RUN_BEACON_BLINK. -/
def execRunBeaconBlink (s : State) : Result := done (runBeaconBlink s)

end Sys2Proof.Machine
end

