-- ==== Sys2Proof/Machine/Robot.lean ====
section
/-!
DEFINITION. The port receiver, byte by byte, and the meanings of the commands of the robot port and its timers:
PLACE_DONE, SCAN_DATA, SWAP_DONE, ROBOT_STATE, RECORD_DISCARDED, RECORD_ABANDONED, INTER_BYTE_TIMEOUT, PLACE_EXPIRY,
SCAN_TIMEOUT, SWAP_TIMEOUT and PAUSE_TIMER_EXPIRY (chapters 6 to 9 and 12).
-/
namespace Sys2Proof.Machine

/-! ### Records (R105, R177) -/

/-- The receiver returns to idle (R177). -/
def receiverIdle (s : State) : State := { s with receiver := .idle }

/-- The command that a fully assembled record raises: the one of its kind when it passes the tests of R105, otherwise
RECORD_DISCARDED. -/
def recordCommand (kind seq : Byte) (payload : List Byte) (check : Byte) : Instr :=
  if recordPasses kind seq payload check then
    match kind.toNat with
    | 0x81 => .placeDone seq payload check
    | 0x82 => .scanData seq payload check
    | 0x83 => .swapDone seq payload check
    | 0x84 => .robotState seq payload check
    | _ => .recordDiscarded kind seq payload check
  else .recordDiscarded kind seq payload check

/-- The start byte of a record (12 section 12.5). -/
def startByte : Byte := 0x7E

/-- The bytes taken since the start byte, one by one: the receiver goes on taking, abandons the record at a length byte
above 48, or has assembled it and raises its command; after either it is idle (R177). -/
def takeRecord (now : Millis) (got : List Byte) : Receiver × Option Instr :=
  if partialRecord got then (.taking got now, none)
  else
    match got with
    | kind :: seq :: len :: rest =>
      if maxRecordPayload < len.toNat then (.idle, some (.recordAbandoned kind seq len))
      else (.idle, some (recordCommand kind seq (rest.take len.toNat) (byteAt rest len.toNat)))
    | _ => (.taking got now, none)

/-- The port receiver takes one byte: idle, it passes over every byte but the start byte; after the start byte every
byte is data, 7EH too (R177). -/
def takeByte (now : Millis) (r : Receiver) (b : Byte) : Receiver × Option Instr :=
  match r with
  | .idle => (if b = startByte then .taking [] now else .idle, none)
  | .taking got _ => takeRecord now (got ++ [b])

/-- The next byte of the URX pin is received, the rest of the bytes waiting behind it; a record that ends with it raises
its command, which is the next one taken (R177; log entry 7). -/
def receiveByte (b : Byte) (rest : List Byte) (s : State) : State :=
  { s with
    urx := rest
    receiver := (takeByte s.timeBase s.receiver b).1
    pending := (takeByte s.timeBase s.receiver b).2.toList ++ s.pending }

/-- More than 5 ms have passed since the last byte of an unfinished record (R177). -/
def gapPassed (s : State) : Bool :=
  match s.receiver with
  | .idle => false
  | .taking _ lastAt => 5 < (s.timeBase - lastAt).toNat

/-- The gap raises INTER_BYTE_TIMEOUT, which is the next command taken: no further byte of the record came (R177). -/
def raiseGap (s : State) : State := { s with pending := .interByteTimeout [] :: s.pending }

/-- A record of a kind the part receives is assembled and tested: handed on, or discarded and counted; one with a
length byte above 48 is abandoned and counted (R105, R177). -/
def onRecord (kind seq : Byte) (payload : List Byte) (check : Byte) (act : State → State) (s : State) : State :=
  if payload.length ≤ maxRecordPayload ∧ recordPasses kind seq payload check then act (receiverIdle s)
  else linkError (receiverIdle s)

/-! ### PLACE DONE (R113, R115 to R118, R122) -/

/-- A matched PLACE DONE is taken: the port is free, and without the discard mark the outcome is taken on the entry; the
arbiter runs (R113, R122). -/
def takePlaceDone (f : InFlight) (o : PlaceOutcome) (measured : Nat) (s : State) : State :=
  let s1 := freePort s
  runArbiter
    (if f.discard then s1
     else
       match flightEntry f s1 with
       | none => s1
       | some e => takeOutcome o measured f.build e s1)

/-- PLACE_DONE (R113). -/
def placeDone (seq : Byte) (payload : List Byte) (check : Byte) (s : State) : State :=
  onRecord 0x81#8 seq payload check (fun t =>
    match matchesFlight .place seq t, outcomeOf payload with
    | some f, some o => takePlaceDone f o (measuredWeight payload) t
    | _, _ => linkError t) s

/-! ### SCAN DATA (R120, R122, R139, R140) -/

/-- A matched SCAN DATA is taken: the port is free, the scan is no longer in flight, and without the discard mark the
heights are compared; the arbiter runs (R113, R120, R122). -/
def takeScanData (f : InFlight) (measured : Tiles Nat) (s : State) : State :=
  let s1 := endScanFlight f.build (freePort s)
  let s2 :=
    if f.discard then s1
    else
      match (s.build f.build).scanInFlight with
      | none => s1
      | some flight => scanResult f.build flight measured s1
  runArbiter (sweepIfStillOpen f.build (s.build f.build).state s2)

/-- SCAN_DATA (R113, R139). -/
def scanData (seq : Byte) (payload : List Byte) (check : Byte) (s : State) : State :=
  onRecord 0x82#8 seq payload check (fun t =>
    match matchesFlight .scan seq t with
    | some f => takeScanData f (measuredHeights payload) t
    | none => linkError t) s

/-! ### SWAP DONE (R149, R153) -/

/-- The swap of a build is no longer in flight. -/
def endSwapFlight (b : BuildId) (s : State) : State := updateBuild b (fun x => { x with swapInFlight := false }) s

/-- A build after its exchange: EMPTY, both surfaces deck, no order, the map clear (R149). -/
def Build.exchanged (x : Build) : Build :=
  { x.dropOrder with
    state := .empty
    ending := .noEnding
    built := Surface.deck
    planned := Surface.deck
    mismatch := clearMap
    holdOrigin := .noOrigin }

/-- A matched SWAP DONE is taken; the arbiter runs (R113, R149, R153). -/
def takeSwapDone (f : InFlight) (s : State) : State :=
  let s1 := endSwapFlight f.build (freePort s)
  runArbiter (if f.discard then s1 else reportBuild f.build (updateBuild f.build Build.exchanged s1))

/-- SWAP_DONE (R113, R149). -/
def swapDone (seq : Byte) (payload : List Byte) (check : Byte) (s : State) : State :=
  onRecord 0x83#8 seq payload check (fun t =>
    match matchesFlight .swap seq t with
    | some f => takeSwapDone f t
    | none => linkError t) s

/-! ### ROBOT STATE (R106) -/

/-- The robot-ready flag takes the state carried; a change to ready runs the arbiter (R106). -/
def takeRobotState (ready : Bool) (s : State) : State :=
  let s1 := { s with robotReady := ready }
  if ready && !s.robotReady then runArbiter s1 else s1

/-- ROBOT_STATE (R105, R106). -/
def robotState (seq : Byte) (payload : List Byte) (check : Byte) (s : State) : State :=
  onRecord 0x84#8 seq payload check (takeRobotState (byteAt payload 0 != 0)) s

/-! ### Records that are not handed on (R105, R177) -/

/-- RECORD_DISCARDED: an assembled record that fails a test is discarded and counted (R105). -/
def recordDiscarded (kind seq : Byte) (payload : List Byte) (check : Byte) (s : State) : State :=
  if payload.length ≤ maxRecordPayload ∧ !recordPasses kind seq payload check then linkError (receiverIdle s) else s

/-- RECORD_ABANDONED: a length byte above 48 (R177). -/
def recordAbandoned (_kind _seq length : Byte) (s : State) : State :=
  if maxRecordPayload < length.toNat then linkError (receiverIdle s) else s

/-- The bytes that the receiver has taken since the start byte (R177). -/
def Receiver.held : Receiver → List Byte
  | .idle => []
  | .taking got _ => got

/-- The whole number of milliseconds above 5 (R177; log entry 5). -/
def interByteGap : Millis := 6

/-- The time base at the end of a gap: where the gap has not passed yet, the moment at which it has (R177; log entry
5). -/
def runGap (got : List Byte) (s : State) : State :=
  { s with timeBase := if got.isEmpty && gapPassed s then s.timeBase else s.timeBase + interByteGap }

/-- INTER_BYTE_TIMEOUT: bytes of a record have come, and more than 5 ms pass before the next one: the record is
abandoned and counted (R177; log entry 7). -/
def interByteTimeout (got : List Byte) (s : State) : State :=
  if partialRecord (s.receiver.held ++ got) then
    linkError (receiverIdle (runGap got s))
  else s

/-! ### Expiries (R114, R119, R122, R129, R143, R150) -/

/-- The in-flight record, when it is of this kind. -/
def flightOf (k : OpKind) (s : State) : Option InFlight :=
  match s.inFlight with
  | none => none
  | some f => if f.kind == k then some f else none

/-- The timer of the operation in flight expires: the time base stands at the expiry and the port is free (R108, R114;
log entry 5). -/
def expireFlight (f : InFlight) (s : State) : State := freePort (runTo f.startedAt f.limitMs s)

/-- The place expiry of an entry: uncertain, the fault, the streak (R119). -/
def placeExpired (b : BuildId) (e : PlanEntry) (s : State) : State :=
  streakFailure b (some e.tag)
    (recordFault .placeTimeout .attn (some b) (some e.tag) (becomeUncertain b e .placedOrNot s))

/-- PLACE_EXPIRY (R114, R119, R122). -/
def placeExpiry (s : State) : State :=
  match flightOf .place s with
  | none => s
  | some f =>
    let s1 := expireFlight f s
    runArbiter
      (if f.discard then s1
       else
         match flightEntry f s1 with
         | none => s1
         | some e => placeExpired f.build e s1)

/-- SCAN_TIMEOUT (R114, R122, R143). -/
def scanTimeout (s : State) : State :=
  match flightOf .scan s with
  | none => s
  | some f =>
    let s1 := endScanFlight f.build (expireFlight f s)
    let s2 :=
      if f.discard then s1
      else
        match (s.build f.build).scanInFlight with
        | none => s1
        | some flight => scanExpired f.build flight s1
    runArbiter (sweepIfStillOpen f.build (s.build f.build).state s2)

/-- A build after a swap expiry: HELD with no order, the grid kept (R150). -/
def Build.swapExpired (x : Build) : Build :=
  { (x.dropOrder.hold .noOrigin) with ending := .noEnding }

/-- SWAP_TIMEOUT (R114, R122, R150). -/
def swapTimeout (s : State) : State :=
  match flightOf .swap s with
  | none => s
  | some f =>
    let s1 := endSwapFlight f.build (expireFlight f s)
    runArbiter
      (if f.discard then s1
       else
         reportBuild f.build (updateBuild f.build Build.swapExpired
           (recordFault .swapTimeout .attn (some f.build) none s1)))

/-- The length of a pause, in ms (R128). -/
def pauseMs (s : State) : Nat := s.own2.pauseLength * 100

/-- PAUSE_TIMER_EXPIRY: the pause ends: RUN, F 0, a sweep, the arbiter (R129). -/
def pauseTimerExpiry (s : State) : State :=
  match s.pauseTimer with
  | none => s
  | some start =>
    if s.station = .paused then
      runArbiter (triggerSweep { runTo start (pauseMs s) s with station := .run, streak := 0, pauseTimer := none })
    else s

/-! ### The meanings -/

/-- PLACE_DONE. -/
def execPlaceDone (seq : Byte) (payload : List Byte) (check : Byte) (s : State) : Result :=
  done (placeDone seq payload check s)

/-- SCAN_DATA. -/
def execScanData (seq : Byte) (payload : List Byte) (check : Byte) (s : State) : Result :=
  done (scanData seq payload check s)

/-- SWAP_DONE. -/
def execSwapDone (seq : Byte) (payload : List Byte) (check : Byte) (s : State) : Result :=
  done (swapDone seq payload check s)

/-- ROBOT_STATE. -/
def execRobotState (seq : Byte) (payload : List Byte) (check : Byte) (s : State) : Result :=
  done (robotState seq payload check s)

/-- INTER_BYTE_TIMEOUT. -/
def execInterByteTimeout (got : List Byte) (s : State) : Result := done (interByteTimeout got s)

/-- PLACE_EXPIRY. -/
def execPlaceExpiry (s : State) : Result := done (placeExpiry s)

/-- SCAN_TIMEOUT. -/
def execScanTimeout (s : State) : Result := done (scanTimeout s)

/-- SWAP_TIMEOUT. -/
def execSwapTimeout (s : State) : Result := done (swapTimeout s)

/-- PAUSE_TIMER_EXPIRY. -/
def execPauseTimerExpiry (s : State) : Result := done (pauseTimerExpiry s)

/-- RECORD_DISCARDED. -/
def execRecordDiscarded (kind seq : Byte) (payload : List Byte) (check : Byte) (s : State) : Result :=
  done (recordDiscarded kind seq payload check s)

/-- RECORD_ABANDONED. -/
def execRecordAbandoned (kind seq length : Byte) (s : State) : Result := done (recordAbandoned kind seq length s)

end Sys2Proof.Machine
end

