-- ==== Sys2Proof/Machine/Line.lean ====
section
/-!
DEFINITION. The meanings of the commands of the depot line and the contest: FRAME_RECEPTION, CASE_NOTICE, CLAIM, MISS,
REPLY_REPORT_HELLO_READY, ARBITRATION, TRANSMISSION_COMPLETE, TRANSMISSION_FAILURE and SWEEP_OFFER (chapters 1, 2, 12,
R162, R163).
-/
namespace Sys2Proof.Machine

/-! ### Reception (R5, R162, R163, R175) -/

/-- The frames the receive buffer holds at most (R5). -/
def rxCapacity : Nat := 16

/-- The frame enters the receive buffer, or is lost and counted (R5). -/
def bufferFrame (f : Frame) (s : State) : State :=
  if rxCapacity ≤ s.rxBuffer.length then count .rxLost s else { s with rxBuffer := s.rxBuffer ++ [f] }

/-- The line interface marks a received frame as its own: it comes from a transmission of this station, and it is the
frame that this station has sent and not yet received back (R162, R25; log entry 35). -/
def isOwn (f : Frame) (own : Bool) (s : State) : Bool := own && s.ownSent == some f

/-- A frame of another node is a duplicate when it carries this station's number; the check is not made in SILENT
(R162). -/
def isDuplicate (f : Frame) (s : State) : Bool :=
  s.station != .silent && s.stationNumber.isSome && sourceStation f == s.stationNumber

/-- No frame of this station is to come back from the line any more: it has come, or its transmission has failed (R162,
R24; log entry 35). -/
def forgetOwn (s : State) : State := { s with ownSent := none }

/-- Every frame leaves the queue but one in transmission, which is not offered again (R24, R163). -/
def emptyTxQueue (s : State) : State :=
  { s with
    txQueue :=
      (s.txQueue.filter fun f => f.inTransmission).map fun f => { f with noRetry := true, linked := false } }

/-- The station enters SILENT on a duplicate: the queued claims are aborted, the queue is emptied, the pause timer
stops, the pairing ends, and the fault is recorded (R39, R129, R163, R164; log entry 17). -/
def enterSilent (s : State) : State :=
  recordFault .duplicateNumber .stop none none
    (emptyTxQueue (leaveRun { s with station := .silent, pauseTimer := none, pairing := none }))

/-- FRAME_RECEPTION: discarded, or checked for a duplicate number and buffered (R162, R175). -/
def frameReception (f : Frame) (own : Bool) (s : State) : State :=
  if frameAccepted f then
    bufferFrame f (if isOwn f own s then forgetOwn s else if isDuplicate f s then enterSilent s else s)
  else s

/-! ### CASE NOTICE (R6 to R11) -/

/-- The record of a notice that passes its checks (R11). -/
def noticeRecord (p : List Byte) (s : State) : TrackRecord where
  tag := wordAt p 0
  desc := clampNotice (noticeDesc p)
  closeAt := wordAt p 2 + s.line.closeDist
  deadlineAt := wordAt p 2 + s.line.closeDist - s.line.guardDist
  deadlinePassed := reached s.belt (wordAt p 2 + s.line.closeDist - s.line.guardDist)
  state := .unbid
  best := none
  bid := none

/-- The counter that a notice advances when it fails a check, in the order of the checks (R7 to R10). -/
def noticeRefusal (p : List Byte) (s : State) : Option CounterName :=
  if !noticeFieldsOk (noticeDesc p) then some .badNotice
  else if (findRecord (wordAt p 0) s).isSome then some .dupNotice
  else if reached s.belt (wordAt p 2 + s.line.closeDist) then some .lateNotice
  else if trackCapacity ≤ s.track.length then some .trackFull
  else none

/-- A record is appended at the tail and its positions are registered; a send deadline already reached is taken at its
registration (R4, R11). -/
def appendRecord (r : TrackRecord) (s : State) : State :=
  let s1 := register .closePoint r.tag r.closeAt { s with track := s.track ++ [r] }
  if r.deadlinePassed then s1 else register .sendDeadline r.tag r.deadlineAt s1

/-- A CASE NOTICE taken in RUN or PAUSED (R6 to R11). -/
def takeNotice (p : List Byte) (s : State) : State :=
  match noticeRefusal p s with
  | some c => count c s
  | none => evaluate (noticeRecord p s) (appendRecord (noticeRecord p s) s)

/-- CASE_NOTICE: the receive buffer hands on a CASE NOTICE (R6). -/
def caseNotice (s : State) : State :=
  handOn (fun f => kindOf f == 0)
    (fun f t => if t.station = .run ∨ t.station = .paused then takeNotice f.payload t else t) s

/-! ### CLAIM, MISS and frames that need no action (R5, R13, R175) -/

/-- CLAIM: the receive buffer hands on a CLAIM (R13, R28). -/
def claim (s : State) : State :=
  handOn (fun f => kindOf f == 1) (fun f t => hearClaim (wordAt f.payload 0) (heardOf f) t) s

/-- MISS: the receive buffer hands on a MISS, which needs no action (R5). -/
def miss (s : State) : State := handOn (fun f => kindOf f == 2) (fun _ t => t) s

/-- REPLY_REPORT_HELLO_READY: a kind 4 frame, a HELLO or a READY needs no action (R175). -/
def replyReportHelloReady (s : State) : State :=
  handOn (fun f => kindOf f == 4 || isStartUp 4 f || isStartUp 5 f) (fun _ t => t) s

/-! ### Sending (R24 to R27) -/

/-- The frame in transmission. -/
def onLine (s : State) : Option TxFrame := s.txQueue.find? (fun f => f.inTransmission)

/-- A held frame wins arbitration: it is in transmission, and will be received back as this station's own (R24, R25,
R162). -/
def startTransmission (i : Nat) (s : State) : State :=
  { s with
    txQueue := s.txQueue.modify i (fun f => { f with inTransmission := true })
    ctx := (s.txQueue[i]?).map (fun f => f.body.frame s.number)
    ownSent := (s.txQueue[i]?).map (fun f => f.body.frame s.number) }

/-- ARBITRATION: on a free line the held frame with the lowest identifier is offered, and is in transmission if it
wins; a SILENT station starts none (R24, R163). -/
def arbitration (won : Bool) (s : State) : State :=
  if (onLine s).isNone && s.station != .silent && won then
    match lowestHeld s.number s.txQueue with
    | none => s
    | some i => startTransmission i s
  else s

/-- The frame in transmission leaves the queue. -/
def dropOnLine (s : State) : State :=
  { s with txQueue := s.txQueue.filter (fun f => !f.inTransmission), ctx := none }

/-- The tag of the record whose own bid's frame this is. -/
def TxFrame.claimTag (f : TxFrame) : Option Tag :=
  match f.body with
  | .claim tag _ _ => if f.linked then some tag else none
  | _ => none

/-- A QUEUED record whose CLAIM has been transmitted becomes SENT (R25). -/
def TrackRecord.transmitted (r : TrackRecord) : TrackRecord :=
  if r.state = .queued then { r with state := .sent } else r

/-- TRANSMISSION_COMPLETE: the frame leaves the queue, and a QUEUED record whose frame it is becomes SENT (R24, R25). -/
def transmissionComplete (s : State) : State :=
  match onLine s with
  | none => s
  | some f =>
    match f.claimTag with
    | none => dropOnLine s
    | some tag => updateRecord tag TrackRecord.transmitted (dropOnLine s)

/-- The record of a CLAIM frame that a failed transmission removes: a QUEUED record's entry is withdrawn, and a QUEUED
or UNBACKED record returns to UNBID (R27, R29, R30, R39). -/
def claimFailed (tag : Tag) (s : State) : State :=
  match findRecord tag s with
  | none => s
  | some r =>
    match r.state with
    | .queued => removeBidEntry r (updateRecord tag TrackRecord.toUnbid s)
    | .unbacked => updateRecord tag TrackRecord.toUnbid s
    | .unbid => s
    | .sent => s
    | .lost => s

/-- The frame in transmission returns to its place in the queue (R24). -/
def returnToQueue (s : State) : State :=
  { s with txQueue := s.txQueue.map (fun f => { f with inTransmission := false }), ctx := none }

/-- TRANSMISSION_FAILURE: the frame returns to its place, or is removed when its record no longer calls for it or a
line clear has left it; it does not come back from the line (R24, R27). -/
def transmissionFailure (s : State) : State :=
  match onLine s with
  | none => s
  | some f =>
    if f.noRetry then
      match f.claimTag with
      | none => dropOnLine (forgetOwn s)
      | some tag => claimFailed tag (dropOnLine (forgetOwn s))
    else returnToQueue (forgetOwn s)

/-! ### Sweeps (R20) -/

/-- The sweep goes on behind the record it has offered, or reaches the end of the list (R20; log entry 12). -/
def advanceSweep (c : Nat) (s : State) : State :=
  if c < s.track.length then { s with sweep := some c } else endSweep s

/-- SWEEP_OFFER: the next record of the sweep under way is offered for evaluation (R20). -/
def sweepOffer (s : State) : State :=
  match s.sweep with
  | none => s
  | some c =>
    match s.track[c]? with
    | none => endSweep s
    | some r => advanceSweep (c + 1) (evaluate r s)

/-! ### The meanings -/

/-- FRAME_RECEPTION. -/
def execFrameReception (f : Frame) (own : Bool) (s : State) : Result := done (frameReception f own s)

/-- CASE_NOTICE. -/
def execCaseNotice (s : State) : Result := done (caseNotice s)

/-- CLAIM. -/
def execClaim (s : State) : Result := done (claim s)

/-- MISS. -/
def execMiss (s : State) : Result := done (miss s)

/-- REPLY_REPORT_HELLO_READY. -/
def execReplyReportHelloReady (s : State) : Result := done (replyReportHelloReady s)

/-- ARBITRATION. -/
def execArbitration (won : Bool) (s : State) : Result := done (arbitration won s)

/-- TRANSMISSION_COMPLETE. -/
def execTransmissionComplete (s : State) : Result := done (transmissionComplete s)

/-- TRANSMISSION_FAILURE. -/
def execTransmissionFailure (s : State) : Result := done (transmissionFailure s)

/-- SWEEP_OFFER. -/
def execSweepOffer (s : State) : Result := done (sweepOffer s)

end Sys2Proof.Machine
end

