-- ==== Sys2Proof/Machine/Start.lean ====
section
/-!
DEFINITION. The meanings of POWER_ON, RESET, ROLL_CALL, LINE_SETUP, STATION_SETUP_1, STATION_SETUP_2, CLEAR_PREPARE and
CLEAR (chapter 10, R61).
-/
namespace Sys2Proof.Machine

/-! ### Power-on and HELLO (R155, R156) -/

/-- HELLO with the setup taken flags as they stand (R156). -/
def helloOf (s : State) : TxBody := .hello s.lineSetup.isSome s.setup1.isSome s.setup2.isSome

/-- The part starts: every block at its power-on values, the straps read, and a HELLO in AWAIT CONFIG or SILENT with no
station number (R155). The commands that wait go on waiting, and so do the bytes that have not been received yet. -/
def startUp (straps : BitVec 4) (s : State) : State :=
  let base := { State.blank with pending := s.pending, urx := s.urx }
  if isStationNumber straps.toNat then
    let s1 := { base with station := .awaitConfig, stationNumber := some straps.toNat }
    offer (helloOf s1) s1
  else base

/-- POWER_ON (R155). -/
def powerOn (straps : BitVec 4) (s : State) : State := startUp straps s

/-- RESET: release of the reset pin starts the part as power-on does (R155, 12 section 12.6). -/
def resetPin (straps : BitVec 4) (s : State) : State := startUp straps s

/-- ROLL_CALL: answered with a HELLO in AWAIT CONFIG, ignored otherwise (R156). -/
def rollCall (s : State) : State :=
  handOn (isStartUp 0) (fun _ t => if t.station = .awaitConfig then offer (helloOf t) t else t) s

/-! ### Setup frames (R157 to R161) -/

/-- A position at READY: EMPTY with both surfaces deck when it has credits, UNUSED otherwise (R41, R64, R161). -/
def Build.atReady (credits : Nat) (x : Build) : Build :=
  if 0 < credits then { x with state := .empty, built := Surface.deck, planned := Surface.deck } else x

/-- A BUILD REPORT for a position that enters EMPTY at READY (R161). -/
def reportReady (b : BuildId) (s : State) : State := if 0 < s.credits b then reportBuild b s else s

/-- READY, when all three setup frames are taken (R161). -/
def readyIfComplete (s : State) : State :=
  if s.lineSetup.isSome && s.setup1.isSome && s.setup2.isSome then
    let s1 := offer (.ready (s.credits .A) (s.credits .B)) s
    let s2 := { s1 with station := .run, streak := 0, cycles := 0 }
    let s3 := updateBuild .B (Build.atReady (s.credits .B)) (updateBuild .A (Build.atReady (s.credits .A)) s2)
    reportReady .B (reportReady .A s3)
  else s

/-- A setup frame by the station state: taken or refused DATA in AWAIT CONFIG, LOCKED after READY, ignored in SILENT
(R157). -/
def onSetup (code : Nat) (ok : Bool) (take : State → State) (s : State) : State :=
  match s.station with
  | .silent => s
  | .awaitConfig =>
    if ok then readyIfComplete (answerSetup code .accepted (take s)) else answerSetup code .data s
  | .run => answerSetup code .locked s
  | .paused => answerSetup code .locked s
  | .stalled => answerSetup code .locked s

/-- LINE_SETUP: taken by every station that receives it (R157, R158). -/
def lineSetup (s : State) : State :=
  handOn (isStartUp 1) (fun f t =>
    let v := lineSetupOf f.payload
    onSetup 1 (lineSetupOk v t.setup1) (fun u => { u with lineSetup := some v }) t) s

/-- STATION_SETUP_1 addressed to this station (R157, R159). -/
def stationSetup1 (s : State) : State :=
  handOn (isStartUp 2) (fun f t =>
    let v := setup1Of f.payload
    if setupTargetHere f t then onSetup 2 (setup1Ok v t.lineSetup) (fun u => { u with setup1 := some v }) t else t) s

/-- STATION_SETUP_2 addressed to this station: its field values are never refused (R157, R160). -/
def stationSetup2 (s : State) : State :=
  handOn (isStartUp 3) (fun f t =>
    let v := setup2Of f.payload
    if setupTargetHere f t then onSetup 3 true (fun u => { u with setup2 := some v }) t else t) s

/-! ### The two-step line clear (R164, R165) -/

/-- CLEAR_PREPARE: a live prepare with its pairing number (R164). -/
def clearPrepare (s : State) : State :=
  handOn (isCode 3 8) (fun f => onCommand f (fun t =>
    if t.station = .awaitConfig then answer 8 none .notReady t
    else answer 8 none .accepted { t with pairing := some (wordAt f.payload 0) })) s

/-- The state of a build after a line clear (R61). -/
def clearedState (x : Build) : BuildState :=
  match x.state with
  | .swapping => .held
  | .empty => .empty
  | .unused => .unused
  | .loading => if allDeck x.built then .empty else .held
  | .opened => if allDeck x.built then .empty else .held
  | .held => if allDeck x.built then .empty else .held
  | .closing => if allDeck x.built then .empty else .held

/-- A build record at a line clear: grid, built totals and mismatch map kept, order discarded, lists emptied, planned
equal to built, due scan and due swap dropped (R61, R82, R132, R153). An UNUSED build holds none of these and stays as
it is. -/
def Build.cleared (x : Build) : Build :=
  { x.dropOrder with
    state := clearedState x
    ending := .noEnding
    planned := x.built
    plan := []
    scanDue := none
    holdOrigin := .noOrigin
    swapDue := false }

/-- The station state after a line clear: RUN from PAUSED or STALLED (R123, R165). -/
def stationAfterClear : StationState → StationState
  | .paused => .run
  | .stalled => .run
  | .run => .run
  | .awaitConfig => .awaitConfig
  | .silent => .silent

/-- Every block's part of the line clear, before its frames are offered (R165 and the table there). -/
def clearBlocks (s : State) : State :=
  { emptyTxQueue s with
    positions := []
    eyeLatch := none
    track := []
    throttled := false
    throttleSeen := false
    sweep := none
    pendingSweep := false
    buildA := s.buildA.cleared
    buildB := s.buildB.cleared
    pick := []
    inFlight := s.inFlight.map (fun f => { f with discard := true })
    streak := 0
    cycles := 0
    pauseTimer := none
    station := stationAfterClear s.station
    pairing := none
    fault := FaultRecord.clear
    counters := Counters.zero }

/-- The line clear: the blocks, the REPLY, the BUILD REPORT of each build whose state changed, the arbiter (R61, R165).
-/
def lineClear (s : State) : State :=
  runArbiter (reportChange .B s.buildB.state (reportChange .A s.buildA.state
    (answer 9 none .accepted (clearBlocks s))))

/-- CLEAR: the line clear with a live prepare of the same number, otherwise refused (R164). -/
def clear (s : State) : State :=
  handOn (isCode 3 9) (fun f t => onCommand f (fun u =>
    if u.station = .awaitConfig then answer 9 none .notReady u
    else if t.pairing = some (wordAt f.payload 0) then lineClear u
    else answer 9 none .noPrepare u) t) s

/-! ### The meanings -/

/-- POWER_ON. -/
def execPowerOn (straps : BitVec 4) (s : State) : Result := done (powerOn straps s)

/-- RESET. -/
def execReset (straps : BitVec 4) (s : State) : Result := done (resetPin straps s)

/-- ROLL_CALL. -/
def execRollCall (s : State) : Result := done (rollCall s)

/-- LINE_SETUP. -/
def execLineSetup (s : State) : Result := done (lineSetup s)

/-- STATION_SETUP_1. -/
def execStationSetup1 (s : State) : Result := done (stationSetup1 s)

/-- STATION_SETUP_2. -/
def execStationSetup2 (s : State) : Result := done (stationSetup2 s)

/-- CLEAR_PREPARE. -/
def execClearPrepare (s : State) : Result := done (clearPrepare s)

/-- CLEAR. -/
def execClear (s : State) : Result := done (clear s)

end Sys2Proof.Machine
end

