-- ==== Sys2Proof/Machine/Dispatch.lean ====
section
/-!
DEFINITION. The command dispatch: one arm for each row of spec/opcode_table.json, in the table's order.
-/
namespace Sys2Proof.Machine

def exec (i : Instr) (s : State) : Host.Outcome State Fault Refusal :=
  match i with
  | .powerOn straps => Sys2Proof.Machine.execPowerOn straps s
  | .reset straps => Sys2Proof.Machine.execReset straps s
  | .encoderPulse => Sys2Proof.Machine.execEncoderPulse s
  | .sendDeadline tag => Sys2Proof.Machine.execSendDeadline tag s
  | .closePoint tag => Sys2Proof.Machine.execClosePoint tag s
  | .eyeWindowEnd tag => Sys2Proof.Machine.execEyeWindowEnd tag s
  | .pickOpenPoint tag => Sys2Proof.Machine.execPickOpenPoint tag s
  | .pickClosePoint tag => Sys2Proof.Machine.execPickClosePoint tag s
  | .eyeEdge => Sys2Proof.Machine.execEyeEdge s
  | .eyeCapture => Sys2Proof.Machine.execEyeCapture s
  | .frameReception frame own => Sys2Proof.Machine.execFrameReception frame own s
  | .caseNotice => Sys2Proof.Machine.execCaseNotice s
  | .claim => Sys2Proof.Machine.execClaim s
  | .miss => Sys2Proof.Machine.execMiss s
  | .orderOpen => Sys2Proof.Machine.execOrderOpen s
  | .orderLines => Sys2Proof.Machine.execOrderLines s
  | .orderCancel => Sys2Proof.Machine.execOrderCancel s
  | .buildResume => Sys2Proof.Machine.execBuildResume s
  | .buildRelease => Sys2Proof.Machine.execBuildRelease s
  | .clearPrepare => Sys2Proof.Machine.execClearPrepare s
  | .clear => Sys2Proof.Machine.execClear s
  | .statusQuery => Sys2Proof.Machine.execStatusQuery s
  | .faultQuery => Sys2Proof.Machine.execFaultQuery s
  | .rollCall => Sys2Proof.Machine.execRollCall s
  | .lineSetup => Sys2Proof.Machine.execLineSetup s
  | .stationSetup1 => Sys2Proof.Machine.execStationSetup1 s
  | .stationSetup2 => Sys2Proof.Machine.execStationSetup2 s
  | .arbitration won => Sys2Proof.Machine.execArbitration won s
  | .transmissionComplete => Sys2Proof.Machine.execTransmissionComplete s
  | .transmissionFailure => Sys2Proof.Machine.execTransmissionFailure s
  | .placeDone seq payload check => Sys2Proof.Machine.execPlaceDone seq payload check s
  | .scanData seq payload check => Sys2Proof.Machine.execScanData seq payload check s
  | .swapDone seq payload check => Sys2Proof.Machine.execSwapDone seq payload check s
  | .robotState seq payload check => Sys2Proof.Machine.execRobotState seq payload check s
  | .interByteTimeout got => Sys2Proof.Machine.execInterByteTimeout got s
  | .placeExpiry => Sys2Proof.Machine.execPlaceExpiry s
  | .scanTimeout => Sys2Proof.Machine.execScanTimeout s
  | .swapTimeout => Sys2Proof.Machine.execSwapTimeout s
  | .pauseTimerExpiry => Sys2Proof.Machine.execPauseTimerExpiry s
  | .sweepOffer => Sys2Proof.Machine.execSweepOffer s
  | .runBeaconBlink => Sys2Proof.Machine.execRunBeaconBlink s
  | .recordDiscarded kind seq payload check => Sys2Proof.Machine.execRecordDiscarded kind seq payload check s
  | .recordAbandoned kind seq length => Sys2Proof.Machine.execRecordAbandoned kind seq length s
  | .replyReportHelloReady => Sys2Proof.Machine.execReplyReportHelloReady s

end Sys2Proof.Machine
end

