-- ==== Sys2Proof/Machine/Step.lean ====
section
/-!
DEFINITION. One step: the command at the front of the queue is taken. With no command waiting, a gap in a record raises
its command, or the port receiver takes the next byte of the URX pin (R177; log entry 7), and with none of these one
millisecond of the time base passes (log entry 5).
-/
namespace Sys2Proof.Machine

/-- The time base counts one millisecond, and the RUN beacon follows its blink (R155, R172; log entry 5). -/
def tick (s : State) : State := showBeacons { s with timeBase := s.timeBase + 1 }

/-- With no command waiting: a gap in a record is raised, the next byte of the URX pin is received, or one millisecond
passes. -/
def idle (s : State) : State :=
  if gapPassed s then showBeacons (raiseGap s)
  else
    match s.urx with
    | [] => tick s
    | b :: rest => showBeacons (receiveByte b rest s)

/-- Take the command at the front of the queue, with the queue's rest; with none the part idles. -/
def step (s : State) : Host.Outcome State Fault Refusal :=
  match s.pending with
  | [] => .next (idle s)
  | c :: rest => exec c { s with pending := rest }

/-- The command that a table word spells, put at the front of the queue. The table gives no row any bits, so no word
spells one (log entry 25). -/
def State.withFetchWord (s : State) (nbits w : Nat) : State :=
  match Sys2Proof.decodeTableWord nbits w with
  | none => s
  | some c => { s with pending := c :: s.pending }

end Sys2Proof.Machine
end

