-- ==== Sys2Proof/Safety.lean ====
section
/-!
DEFINITION. What counts as a safe state of the part, in the terms the statements use: the bounds of its queues and
counters, the one frame on the line, the tags and close points of the track list, the demand accounts and the plan
lists of a build, the conditions of the three beacon lines, what a build offers for a case, what a
recomputation and a withdrawal leave, and when a command's event can occur.
-/
namespace Sys2Proof.Machine

/-- The transmit queue, the receive buffer and the case track list stay within their sizes (R24, R5, R10). -/
abbrev QueueBounds (s : State) : Prop :=
  s.txQueue.length ≤ 8 ∧ s.rxBuffer.length ≤ 16 ∧ s.track.length ≤ 24

/-- The thirteen counters, in the order of R169. -/
def Counters.toList (c : Counters) : List Nat :=
  [c.trackFull, c.lateNotice, c.badNotice, c.dupNotice, c.claimLost, c.forfeit, c.absent, c.lapsed, c.eyeOverrun,
    c.txDrop, c.rxLost, c.linkError, c.weightDeviation]

/-- Each of the thirteen counters and the cycle count P is at most 255, and the streak F at most 15 (R169, R123). -/
abbrev CountsBounded (s : State) : Prop :=
  (∀ n ∈ s.counters.toList, n ≤ 255) ∧ s.streak ≤ 15 ∧ s.cycles ≤ 255

/-- At most one frame of the queue is in transmission, and the line carries that frame or none of this station's (R24,
R176). -/
abbrev LineCarriesOne (s : State) : Prop :=
  s.ctx.toList = (s.txQueue.filter (fun f => f.inTransmission)).map (fun f => f.body.frame s.number)

/-- The track list holds no two records with the same tag (01 section 1.4). -/
abbrev TrackTagsDistinct (s : State) : Prop := (s.track.map TrackRecord.tag).Nodup

/-- Every record of the track list has its close point registered with the belt counter, so that its contest closes
(R3, R11, R14). -/
abbrev CloseRegistered (s : State) : Prop :=
  ∀ r ∈ s.track, ∃ p ∈ s.positions, p.kind = .closePoint ∧ p.tag = r.tag ∧ p.value = r.closeAt

/-- The beacon lines show the conditions of R172, R173 and R174. -/
abbrev BeaconsFollow (s : State) : Prop :=
  (s.beacons.run = true ↔
    s.station = .run ∧ (s.buildA.state = .opened ∨ s.buildB.state = .opened ∨ s.timeBase.toNat % 1000 < 500)) ∧
  (s.beacons.attn = true ↔
    s.buildA.state = .held ∨ s.buildB.state = .held ∨ s.station = .paused ∨
      (s.fault.valid = true ∧ s.fault.severity = .attn)) ∧
  (s.beacons.stop = true ↔
    s.station = .stalled ∨ s.station = .silent ∨ (s.fault.valid = true ∧ s.fault.severity = .stop))

/-- The configuration and the station number of two states are the same (R161). -/
abbrev SameConfig (s t : State) : Prop :=
  t.lineSetup = s.lineSetup ∧ t.setup1 = s.setup1 ∧ t.setup2 = s.setup2 ∧ t.stationNumber = s.stationNumber

/-- A command that starts the part anew: POWER_ON or RESET. -/
def restarts : Instr → Bool
  | .powerOn _ => true
  | .reset _ => true
  | _ => false

/-- The demand accounts of a build agree with its plan list: each entry's line is held, each line's planned count is
the number of its entries, and planned and placed together are at most ordered (R48). -/
abbrev DemandAccounts (x : Build) : Prop :=
  (∀ e ∈ x.plan, e.line < x.lines.length) ∧
  ∀ i : Fin x.lines.length,
    x.lines[i].planned = x.plan.countP (fun e => e.line == i.val) ∧
      x.lines[i].planned + x.lines[i].placed ≤ x.lines[i].ordered

/-- The planned surface carries the built one: no planned height lies below the built height, and no planned margin
above the built margin (R92). -/
abbrev PlannedCarriesBuilt (x : Build) : Prop :=
  ∀ t : Fin 24, x.built.height[t] ≤ x.planned.height[t] ∧ x.planned.margin[t] ≤ x.built.margin[t]

/-- A claim is better than another in the sense of R13: a lower score, or an equal score from a lower station number. -/
abbrev BetterClaim (c : Heard) (score station : Nat) : Prop :=
  c.score < score ∨ (c.score = score ∧ c.station < station)

/-- A tile lies in a footprint: its column is one of the fx from col, its row one of the fy from row (R62, R65). -/
abbrev InFootprint (f : Footprint) (i : Fin 24) : Prop :=
  f.col ≤ i.val % 6 ∧ i.val % 6 < f.col + f.fx ∧ f.row ≤ i.val / 6 ∧ i.val / 6 < f.row + f.fy

/-- Entries applied to a surface in plan order, each with its announced weight (R88, R89, R92). -/
abbrev stacked (u : Surface) (l : List PlanEntry) : Surface :=
  l.foldl (fun v e => v.apply e.foot e.h e.weight e.rating) u

/-- An entry passes the test of the walk on a surface: the base over its footprint is the recorded one, and support,
height, load, weight and centre of gravity pass (R90, R69, R72 to R75). -/
abbrev StandsOn (v : LineSetup) (limit : Nat) (u : Surface) (e : PlanEntry) : Prop :=
  baseOver u.height e.foot = e.base ∧ (∀ i : Fin 24, InFootprint e.foot i → e.base ≤ u.height[i] + v.supportTol) ∧
    e.base + e.h ≤ limit ∧
    (∀ i : Fin 24, InFootprint e.foot i →
      (e.weight + e.foot.fx * e.foot.fy - 1) / (e.foot.fx * e.foot.fy) ≤ u.margin[i]) ∧
    u.weight + e.weight ≤ v.wmax * 10 ∧
    (u.weight + e.weight < v.cogFloor * 10 ∨
      (u.mx + e.weight * (200 * e.foot.col + 100 * e.foot.fx - 600)).natAbs ≤ v.limX * (u.weight + e.weight) ∧
      (u.my + e.weight * (200 * e.foot.row + 100 * e.foot.fy - 400)).natAbs ≤ v.limY * (u.weight + e.weight))

/-- Build y is build x after one recomputation: its planned surface is the built one with the entries that remain applied
in plan order; they are entries of x in their order, every PLACING one among them, and a CONTESTED or WON one exactly
when it passes its test on the surface that the remaining entries before it leave (R88 to R92). The limit is the held
order's; a build with no order holds no CONTESTED or WON entry. -/
def Recomputed (v : LineSetup) (x y : Build) : Prop :=
  y.planned = stacked x.built y.plan ∧ y.plan.Sublist x.plan ∧
    ∀ limit : Nat, (∀ o, x.order = some o → limit = o.heightLimit) →
      (x.order = none → ∀ e ∈ x.plan, e.state = .placing) →
      ∀ older e newer, x.plan = older ++ e :: newer →
        (e ∈ y.plan ↔ e.state = .placing ∨
          StandsOn v limit (stacked x.built (older.filter (fun z => decide (z ∈ y.plan)))) e)

/-- The record of a withdrawn CONTESTED entry moves from s to t as R30 states: a SENT one becomes UNBACKED; a QUEUED one
whose claim is not in transmission returns to UNBID, its frame aborted; a QUEUED one whose claim is in transmission
becomes UNBACKED, and its frame stays on the line, to be removed if the transmission fails. -/
abbrev LosesEntry (s t : State) (tag : Tag) : Prop :=
  ∀ r unbacked, findRecord tag s = some r →
    unbacked = { r with state := .unbacked, bid := r.bid.map (fun o => { o with hasEntry := false }) } →
    (r.state = .sent → findRecord tag t = some unbacked) ∧
    (r.state = .queued → claimInTransmission tag s = false →
      findRecord tag t = some { r with state := .unbid, bid := none } ∧ ∀ g ∈ t.txQueue, g.isOwnClaim tag = false) ∧
    (r.state = .queued → claimInTransmission tag s = true →
      findRecord tag t = some unbacked ∧ claimInTransmission tag t = true ∧
      ∀ g ∈ t.txQueue, g.isOwnClaim tag = true → g.inTransmission = true ∧ g.noRetry = true)

/-- A build is eligible to bid: in OPEN with no scan due or in flight, fewer entries than credits, the station in RUN, and
room in the transmit queue (R18). -/
abbrev EligibleToBid (s : State) (b : BuildId) : Prop :=
  (s.build b).state = .opened ∧ (s.build b).scanDue = none ∧ (s.build b).scanInFlight = none ∧
    (s.build b).plan.length < (if b = .A then s.own1.creditsA else s.own1.creditsB) ∧ s.station = .run ∧
    s.txQueue.length < 8

/-- A build offers a candidate for a case: it holds an order with no ending, the candidate's line is the lowest-index one
for the article with an open count, its BASE flag combines those of case and line, and the placement search on the
planned surface finds it, under the deck reserve while a BASE line is open (R21, R49, R50). -/
abbrev OffersCandidate (s : State) (d : CaseDesc) (c : Candidate) : Prop :=
  ∃ (o : OrderHeader) (l : DemandLine) (active : Bool),
    (s.build c.build).order = some o ∧ (s.build c.build).ending = .noEnding ∧
    (s.build c.build).lines[c.line]? = some l ∧ l.article = d.article ∧ l.planned + l.placed < l.ordered ∧
    (∀ (j : Nat) (m : DemandLine), j < c.line → (s.build c.build).lines[j]? = some m → m.article = d.article →
      m.ordered ≤ m.planned + m.placed) ∧
    (c.base = true ↔ d.base = true ∨ l.base = true) ∧
    (active = true ↔ 0 < o.reserve ∧
      ∃ m ∈ (s.build c.build).lines, m.base = true ∧ m.planned + m.placed < m.ordered) ∧
    search s.line o active (s.build c.build).planned ⟨d.h, d.weight, c.base⟩ d.w d.d = some c.found

/-- A claim counted at the close of a record is better than its own bid: the best heard, or a CLAIM for its tag that is
still in the receive buffer (R31). -/
abbrev Outbid (s : State) (tag : Tag) (r : TrackRecord) (o : OwnBid) : Prop :=
  (∃ c, r.best = some c ∧ BetterClaim c o.score s.number) ∨
    ∃ f ∈ s.rxBuffer, kindOf f = 1 ∧ wordAt f.payload 0 = tag ∧ BetterClaim (heardOf f) o.score s.number

/-- A pick entry meets the conditions of R110 on itself and its build, with its eye match and its plan entry: ARRIVED
with its window open, the ready check of R97 (the greatest built height of its footprint is its recorded base, and no
tile lies more than SUPPORT_TOL below it), its build in OPEN or CLOSING with no scan due or in flight. -/
abbrev MayBePlaced (s : State) (p : PickEntry) (m : EyeMatch) (e : PlanEntry) : Prop :=
  p.phase = .arrived m ∧ m.windowOpen = true ∧ findEntry p.build p.tag s = some e ∧
    baseOver (s.build p.build).built.height e.foot = e.base ∧
    (∀ i : Fin 24, covers e.foot i = true → e.base ≤ (s.build p.build).built.height[i] + s.line.supportTol) ∧
    ((s.build p.build).state = .opened ∨ (s.build p.build).state = .closing) ∧
    (s.build p.build).scanDue = none ∧ (s.build p.build).scanInFlight = none

/-- The oldest frame of the receive buffer is a build command with this code, addressed to this station, that names a
build, and the station takes commands (R43). -/
abbrev TakesBuildCommand (s : State) (code : Nat) (f : Frame) (rest : List Frame) (b : BuildId) : Prop :=
  s.rxBuffer = f :: rest ∧ isCode 3 code f = true ∧ highNibble f ≠ 0 ∧ s.stationNumber = some (highNibble f) ∧
    (s.station = .run ∨ s.station = .paused ∨ s.station = .stalled) ∧ buildField f.payload = some b

/-- The oldest frame of the receive buffer is a command with this code, addressed to this station or to all stations,
and the station takes commands (R164, R168, R170). -/
abbrev TakesCommand (s : State) (code : Nat) (f : Frame) (rest : List Frame) : Prop :=
  s.rxBuffer = f :: rest ∧ isCode 3 code f = true ∧ (highNibble f = 0 ∨ s.stationNumber = some (highNibble f)) ∧
    s.station ≠ .silent

/-- The port lets the arbiter grant nothing: an operation is in flight, or the robot is not ready (R109). -/
abbrev PortHeld (s : State) : Prop := s.inFlight ≠ none ∨ s.robotReady = false

/-- The oldest frame of the receive buffer is of this kind, and of this code where one is given: the low code of a
command, the high one of a start-up frame (R5, 12 section 12.1). -/
abbrev OldestIs (s : State) (kind : Nat) (code : Frame → Prop) : Prop :=
  ∃ f rest, s.rxBuffer = f :: rest ∧ kindOf f = kind ∧ code f

/-- The event of a registered position has been raised and waits to be taken (R3; log entry 3). -/
abbrev EventRaised (s : State) (k : PosKind) (tag : Tag) : Prop :=
  ∃ p ∈ s.positions, p.kind = k ∧ p.tag = tag ∧ p.raised = true

/-- The command's event can occur in a state; where it cannot, the command is one of those of log entry 2. -/
def CanOccur (c : Instr) (s : State) : Prop :=
  match c with
  | .powerOn _ => True
  | .reset _ => True
  | .encoderPulse => True
  | .sendDeadline tag => EventRaised s .sendDeadline tag
  | .closePoint tag => EventRaised s .closePoint tag
  | .eyeWindowEnd tag => EventRaised s .eyeWindowEnd tag
  | .pickOpenPoint tag => EventRaised s .pickOpen tag
  | .pickClosePoint tag => EventRaised s .pickClose tag
  | .eyeEdge => True
  | .eyeCapture => s.eyeLatch ≠ none
  | .frameReception _ _ => True
  | .caseNotice => OldestIs s 0 (fun _ => True)
  | .claim => OldestIs s 1 (fun _ => True)
  | .miss => OldestIs s 2 (fun _ => True)
  | .orderOpen => OldestIs s 3 (fun f => lowCode f = 1)
  | .orderLines => OldestIs s 3 (fun f => lowCode f = 2)
  | .orderCancel => OldestIs s 3 (fun f => lowCode f = 3)
  | .buildResume => OldestIs s 3 (fun f => lowCode f = 4)
  | .buildRelease => OldestIs s 3 (fun f => lowCode f = 5)
  | .clearPrepare => OldestIs s 3 (fun f => lowCode f = 8)
  | .clear => OldestIs s 3 (fun f => lowCode f = 9)
  | .statusQuery => OldestIs s 3 (fun f => lowCode f = 12)
  | .faultQuery => OldestIs s 3 (fun f => lowCode f = 13)
  | .rollCall => OldestIs s 5 (fun f => highNibble f = 0)
  | .lineSetup => OldestIs s 5 (fun f => highNibble f = 1)
  | .stationSetup1 => OldestIs s 5 (fun f => highNibble f = 2)
  | .stationSetup2 => OldestIs s 5 (fun f => highNibble f = 3)
  | .replyReportHelloReady =>
    OldestIs s 4 (fun _ => True) ∨ OldestIs s 5 (fun f => highNibble f = 4 ∨ highNibble f = 5)
  | .arbitration _ => s.station ≠ .silent ∧ s.txQueue ≠ [] ∧ ∀ f ∈ s.txQueue, f.inTransmission = false
  | .transmissionComplete => ∃ f ∈ s.txQueue, f.inTransmission = true
  | .transmissionFailure => ∃ f ∈ s.txQueue, f.inTransmission = true
  | .placeDone _ _ _ => True
  | .scanData _ _ _ => True
  | .swapDone _ _ _ => True
  | .robotState _ _ _ => True
  | .recordDiscarded kind seq p check => p.length ≤ 48 ∧ recordPasses kind seq p check = false
  | .recordAbandoned _ _ length => 48 < length.toNat
  | .interByteTimeout got => partialRecord (s.receiver.held ++ got) = true
  | .placeExpiry => ∃ g, s.inFlight = some g ∧ g.kind = .place
  | .scanTimeout => ∃ g, s.inFlight = some g ∧ g.kind = .scan
  | .swapTimeout => ∃ g, s.inFlight = some g ∧ g.kind = .swap
  | .pauseTimerExpiry => s.station = .paused ∧ s.pauseTimer ≠ none
  | .runBeaconBlink => s.station = .run ∧ s.buildA.state ≠ .opened ∧ s.buildB.state ≠ .opened
  | .sweepOffer => s.sweep ≠ none

/-- The plan lists, the demand lines and the claims of the station agree with each other: the laws of R48 and R82 with
what they rest on (the states in which a build may hold entries, the origin of a hold, and the exchange). -/
structure PlansSound (s : State) : Prop where
  accounts : ∀ b, DemandAccounts (s.build b)
  tags : ((s.buildA.plan ++ s.buildB.plan).map PlanEntry.tag).Nodup
  track : TrackTagsDistinct s
  unbacked : ∀ r ∈ s.track, r.state = .unbacked → tagPlanned r.tag s = false
  states : ∀ b, (s.build b).plan ≠ [] → (s.build b).state = .opened ∨ (s.build b).state = .held
  origin : ∀ b, (s.build b).holdOrigin = .closing → (s.build b).state = .held ∧ (s.build b).plan = []
  swapDue : ∀ b, (s.build b).swapDue = true → (s.build b).state = .swapping
  swapping : ∀ f, s.inFlight = some f → f.kind = .swap → f.discard = false →
    (s.build f.build).state = .swapping ∧ (s.build f.build).swapDue = false
  waiting : s.station = .awaitConfig → ∀ b, (s.build b).state = .unused

end Sys2Proof.Machine
end

