-- ==== Sys2Proof/Certificates/Slice0/Obligations.lean ====
section
/-!
DEFINITION. The statements for the provers: what the rules of spec/ say of the commands and of the machine as a whole.
A command's next state is given by its values and its frame: an equation t = s with the listed fields taken from t
says that every other field of s is kept.
-/

open Sys2Proof Sys2Proof.Machine

/-! ### The machine as a whole -/

/-- The command at the front of the queue is run with the queue's rest. -/
def Obligations.StepRunsTheFrontCommand : Prop :=
  ∀ (c : Instr) (rest : List Instr) (s : State), s.pending = c :: rest → step s = exec c { s with pending := rest }

/-- On an empty queue the port receiver takes the next byte of the URX pin (R177): idle, it passes over every byte but
7EH; after a start byte every byte is data; a length byte above 48 abandons the record; the check byte ends it. An
abandoned or assembled record, and a gap of more than 5 ms inside a record, raise their command, which stands alone in
the queue. With no byte one millisecond of the time base passes. That the bytes and the time advance on an empty queue
is the model's choice (log entries 5 and 7); the manual gives the time base of R155 no command. A record goes on while
its kind, sequence and length bytes, its payload or its check byte is to come and its length is at most 48 (R177). -/
def Obligations.IdleStepPassesOneMillisecond : Prop :=
  (∀ got, partialRecord got = true ↔ got.length < 3 ∨ ∃ kind seq len p, got = kind :: seq :: len :: p ∧
    len.toNat ≤ 48 ∧ p.length ≤ len.toNat) ∧
  ∀ s : State, s.pending = [] → ∃ t, step s = .next t ∧
    (∀ got lastAt, s.receiver = .taking got lastAt → 5 < (s.timeBase - lastAt).toNat →
      t = { s with pending := [.interByteTimeout []], beacons := t.beacons }) ∧
    ((∀ got lastAt, s.receiver = .taking got lastAt → (s.timeBase - lastAt).toNat ≤ 5) →
      (s.urx = [] → t.timeBase.toNat = (s.timeBase.toNat + 1) % 2 ^ 32 ∧
        t = { s with timeBase := t.timeBase, beacons := t.beacons }) ∧
      (∀ b rest, s.urx = b :: rest →
        (s.receiver = .idle → t = { s with
          urx := rest, receiver := if b.toNat = 0x7E then .taking [] s.timeBase else .idle, beacons := t.beacons }) ∧
        (∀ got lastAt, s.receiver = .taking got lastAt → partialRecord (got ++ [b]) = true → t = { s with
          urx := rest, receiver := .taking (got ++ [b]) s.timeBase, beacons := t.beacons }) ∧
        (∀ kind seq lastAt, s.receiver = .taking [kind, seq] lastAt → 48 < b.toNat → t = { s with
          urx := rest, receiver := .idle, pending := [.recordAbandoned kind seq b], beacons := t.beacons }) ∧
        (∀ kind seq len p lastAt cmd, s.receiver = .taking (kind :: seq :: len :: p) lastAt → len.toNat ≤ 48 →
          p.length = len.toNat →
          cmd = (if recordPasses kind seq p b = false then Instr.recordDiscarded kind seq p b
            else if kind.toNat = 0x81 then .placeDone seq p b
            else if kind.toNat = 0x82 then .scanData seq p b
            else if kind.toNat = 0x83 then .swapDone seq p b
            else .robotState seq p b) →
          t = { s with urx := rest, receiver := .idle, pending := [cmd], beacons := t.beacons })))

/-- Every command answers a next state, whatever the state, and leaves the queue of waiting commands as it is. A command
whose event cannot occur in a state changes nothing there but the beacon lines, which is the model's choice (log entry
2): a position command not raised, a frame of another kind handed on, the end of a transmission with none on the line,
an expiry with no operation of its kind in flight, a capture with an empty latch, an offer with no sweep. -/
def Obligations.EveryCommandCompletes : Prop :=
  ∀ (c : Instr) (s : State), ∃ t, exec c s = .next t ∧ t.pending = s.pending ∧
    (¬ CanOccur c s → t = { s with beacons := t.beacons })

/-- The three beacon lines show their conditions after every step (R172, R173, R174). -/
def Obligations.BeaconsFollowTheirConditions : Prop :=
  ∀ s t : State, step s = .next t → BeaconsFollow t

/-- The state after reset, with straps that read 1 (log entry 1), meets every invariant that the steps keep. -/
def Obligations.ResetIsSafe : Prop :=
  QueueBounds State.reset ∧ CountsBounded State.reset ∧ LineCarriesOne State.reset ∧ TrackTagsDistinct State.reset ∧
    CloseRegistered State.reset ∧ PlansSound State.reset ∧ BeaconsFollow State.reset

/-- The queues stay within their sizes and the counters within theirs (R5, R10, R24, R123, R169). -/
def Obligations.StepKeepsBounds : Prop :=
  ∀ s t : State, QueueBounds s → CountsBounded s → step s = .next t → QueueBounds t ∧ CountsBounded t

/-- At most one frame is in transmission, and the line carries exactly that frame (R24, R176); the
field ctx is the model's view of the line (log entry 20). -/
def Obligations.StepKeepsTheLine : Prop :=
  ∀ s t : State, LineCarriesOne s → step s = .next t → LineCarriesOne t

/-- No two records share a tag, and every record's close point is registered until the record leaves (R8, R11, R14). -/
def Obligations.StepKeepsTheTrackList : Prop :=
  ∀ s t : State, TrackTagsDistinct s → CloseRegistered s → step s = .next t → TrackTagsDistinct t ∧ CloseRegistered t

/-- After READY no configuration value changes until the part starts anew, and the station does not return to AWAIT
CONFIG (R157, R161). A SILENT station keeps its configuration too. -/
def Obligations.ConfigurationIsFixedAfterReady : Prop :=
  ∀ (c : Instr) (s t : State), s.station ≠ .awaitConfig → restarts c = false → exec c s = .next t →
    SameConfig s t ∧ t.station ≠ .awaitConfig

/-- A SILENT station stays SILENT until it starts anew, places no frame in its queue and starts no transmission
(R163). -/
def Obligations.SilenceLastsUntilRestart : Prop :=
  ∀ (c : Instr) (s t : State), s.station = .silent → restarts c = false → exec c s = .next t →
    t.station = .silent ∧ (∀ f ∈ t.txQueue, ∃ g ∈ s.txQueue, f.body = g.body) ∧ (t.ctx = s.ctx ∨ t.ctx = none)

/-- The belt counter gains one at an encoder pulse and changes at no other command but a start (R1). -/
def Obligations.PulsesAloneMoveTheBelt : Prop :=
  ∀ (c : Instr) (s t : State), restarts c = false → exec c s = .next t →
    t.belt = if c = .encoderPulse then s.belt + 1 else s.belt

/-- A command sends at most one request on the robot port, and a request carries the number after the last one, which
the sequence counter takes (R107); the field utx is the model's view of the last request sent (log entry 20). The
request kinds are 1 PLACE, 2 SCAN and 3 SWAP (12 section 12.5). -/
def Obligations.RequestsTakeTheNextNumber : Prop :=
  (requestKind .place = 1 ∧ requestKind .scan = 2 ∧ requestKind .swap = 3) ∧
  ∀ (c : Instr) (s t : State), restarts c = false → exec c s = .next t →
    (t.seqCounter = s.seqCounter ∧ t.utx = s.utx) ∨
      (t.seqCounter.toNat = (s.seqCounter.toNat + 1) % 256 ∧
        ∃ f p, t.inFlight = some f ∧ f.seq = t.seqCounter ∧ f.discard = false ∧
          t.utx = some (recordBytes (requestKind f.kind) t.seqCounter p))

/-- The demand accounts, the plan lists and the claims agree after every step if they agreed before it: planned counts
count the entries, no case tag is planned twice, and nothing is planned on a build that is not OPEN or HELD (R48, R82,
R145). -/
def Obligations.StepKeepsPlansSound : Prop :=
  ∀ s t : State, PlansSound s → step s = .next t → PlansSound t

/-- POWER_ON and RESET read the straps: 1 to 12 gives AWAIT CONFIG with that number and one HELLO, any other value
SILENT with no number; every block takes its power-on values, both surfaces of both builds deck with all totals 0, and
the beacon lines are off but for STOP in SILENT (R155, R1, R15, R41, R106, R107, R123, R166, R169, R172 to R174, R177).
The commands and the bytes that wait outside the part go on waiting (log entries 7 and 25). -/
def Obligations.PowerOnReadsTheStraps : Prop :=
  ∀ (straps : BitVec 4) (s : State), ∃ t, exec (.powerOn straps) s = .next t ∧ exec (.reset straps) s = .next t ∧
    (1 ≤ straps.toNat ∧ straps.toNat ≤ 12 → t.station = .awaitConfig ∧ t.stationNumber = some straps.toNat ∧
      t.txQueue = [TxFrame.fresh (.hello false false false)] ∧ t.beacons = ⟨false, false, false⟩) ∧
    (straps.toNat = 0 ∨ 13 ≤ straps.toNat → t.station = .silent ∧ t.stationNumber = none ∧ t.txQueue = [] ∧
      t.beacons = ⟨false, false, true⟩) ∧
    t.lineSetup = none ∧ t.setup1 = none ∧ t.setup2 = none ∧ t.pairing = none ∧ t.timeBase = 0 ∧ t.belt = 0 ∧
    t.positions = [] ∧ t.eyeLatch = none ∧ t.rxBuffer = [] ∧ t.track = [] ∧ t.throttled = false ∧
    t.throttleSeen = false ∧ t.sweep = none ∧ t.pendingSweep = false ∧ t.pick = [] ∧ t.inFlight = none ∧
    t.seqCounter = 0 ∧ t.ctx = none ∧ t.ownSent = none ∧ t.utx = none ∧ t.robotReady = false ∧ t.receiver = .idle ∧
    t.streak = 0 ∧ t.cycles = 0 ∧ t.pauseTimer = none ∧
    t.fault = ⟨false, false, .attn, none, none, none, 0, 0⟩ ∧ (∀ n ∈ t.counters.toList, n = 0) ∧
    (∀ b, (t.build b).state = .unused ∧ (t.build b).order = none ∧ (t.build b).lines = [] ∧ (t.build b).nextLine = 0 ∧
      (t.build b).ending = .noEnding ∧ (t.build b).plan = [] ∧ (t.build b).scanDue = none ∧
      (t.build b).scanInFlight = none ∧ (t.build b).holdOrigin = .noOrigin ∧ (t.build b).swapDue = false ∧
      (t.build b).swapInFlight = false ∧
      (∀ i : Fin 24, (t.build b).built.height[i] = 0 ∧ (t.build b).built.margin[i] = 60000 ∧
        (t.build b).planned.height[i] = 0 ∧ (t.build b).planned.margin[i] = 60000 ∧
        (t.build b).mismatch[i] = false) ∧
      (∀ x ∈ [(t.build b).built, (t.build b).planned],
        x = Surface.deck ∧ x.weight = 0 ∧ x.mx = 0 ∧ x.my = 0 ∧ x.cases = 0)) ∧
    t.pending = s.pending ∧ t.urx = s.urx

/-! ### The belt, the eye and the pick order list (chapters 1 and 6) -/

/-- ENCODER_PULSE adds one to the counter, and each registered position that the counter then equals raises its event
(R1, R3). -/
def Obligations.EncoderPulseCountsAndRaises : Prop :=
  ∀ s : State, ∃ t, exec .encoderPulse s = .next t ∧ t.belt.toNat = (s.belt.toNat + 1) % 65536 ∧
    t.positions = s.positions.map
      (fun p => { p with raised := p.raised || p.value.toNat == (s.belt.toNat + 1) % 65536 }) ∧
    t = { s with belt := t.belt, positions := t.positions, beacons := t.beacons }

/-- EYE_EDGE: an empty latch takes the counter; at a full latch the edge is lost and counted (R16). -/
def Obligations.EyeEdgeCapturesOrOverruns : Prop :=
  ∀ s : State,
    (s.eyeLatch = none → ∃ t, exec .eyeEdge s = .next t ∧
      t = { s with eyeLatch := some s.belt, beacons := t.beacons }) ∧
    (∀ c, s.eyeLatch = some c → ∃ t, exec .eyeEdge s = .next t ∧
      t = { s with
        counters := { s.counters with eyeOverrun := min (s.counters.eyeOverrun + 1) 255 }, beacons := t.beacons })

/-- EYE_CAPTURE: the capture goes to the first AWAIT EYE entry whose window contains it, which enters ARRIVED with both
pick points registered; without such an entry, or in AWAIT CONFIG and SILENT, it is discarded. The latch is emptied
(R17, R101). An open point that is already reached opens the window at once, and nothing is registered for it (R103);
there the port is held, so that the arbiter that runs grants nothing. A close point already reached is raised at its
registration and taken by its own command (log entry 31). -/
def Obligations.EyeCaptureIsMatchedOrDiscarded : Prop :=
  ∀ (s : State) (c : Count), s.eyeLatch = some c →
    (∀ (older : List PickEntry) (p : PickEntry) (newer : List PickEntry),
      (s.station = .run ∨ s.station = .paused ∨ s.station = .stalled) →
      s.pick = older ++ p :: newer → (s.pick.map PickEntry.tag).Nodup →
      p.phase = .awaitEye → (c - p.winStart).toNat ≤ (p.winEnd - p.winStart).toNat →
      (∀ q ∈ older, q.phase = .awaitEye → (q.winEnd - q.winStart).toNat < (c - q.winStart).toNat) →
      ∃ t, exec .eyeCapture s = .next t ∧
        (32768 ≤ (s.belt - (c + s.own1.pickOpen)).toNat → t = { s with
          eyeLatch := none
          pick := older ++
            { p with phase := .arrived ⟨c, c + s.own1.pickOpen, c + s.own1.pickClose, false⟩ } :: newer
          positions := s.positions.filter (fun q => !(q.kind == .eyeWindowEnd && q.tag == p.tag)) ++
            [⟨.pickOpen, p.tag, c + s.own1.pickOpen, false⟩,
              ⟨.pickClose, p.tag, c + s.own1.pickClose,
                decide ((s.belt - (c + s.own1.pickClose)).toNat < 32768)⟩]
          beacons := t.beacons }) ∧
        ((s.belt - (c + s.own1.pickOpen)).toNat < 32768 → PortHeld s → t = { s with
          eyeLatch := none
          pick := older ++
            { p with phase := .arrived ⟨c, c + s.own1.pickOpen, c + s.own1.pickClose, true⟩ } :: newer
          positions := s.positions.filter (fun q => !(q.kind == .eyeWindowEnd && q.tag == p.tag)) ++
            [⟨.pickClose, p.tag, c + s.own1.pickClose,
              decide ((s.belt - (c + s.own1.pickClose)).toNat < 32768)⟩]
          beacons := t.beacons })) ∧
    ((s.station = .awaitConfig ∨ s.station = .silent ∨
        ∀ q ∈ s.pick, q.phase = .awaitEye → (q.winEnd - q.winStart).toNat < (c - q.winStart).toNat) →
      ∃ t, exec .eyeCapture s = .next t ∧ t = { s with eyeLatch := none, beacons := t.beacons })

/-- PICK_OPEN_POINT: the entry's window opens and its open point is withdrawn; with the port held the arbiter that runs
grants nothing (R103, R109). -/
def Obligations.PickOpenPointOpensTheWindow : Prop :=
  ∀ (s : State) (tag : Tag) (older newer : List PickEntry) (p : PickEntry) (m : EyeMatch),
    EventRaised s .pickOpen tag → s.pick = older ++ p :: newer → (s.pick.map PickEntry.tag).Nodup → p.tag = tag →
    p.phase = .arrived m → PortHeld s →
    ∃ t, exec (.pickOpenPoint tag) s = .next t ∧
      t = { s with
        pick := older ++ { p with phase := .arrived { m with windowOpen := true } } :: newer
        positions := s.positions.filter (fun q => !(q.kind == .pickOpen && q.tag == tag))
        beacons := t.beacons }

/-- EYE_WINDOW_END and PICK_CLOSE_POINT: the case is ABSENT or LAPSED. It is counted, its plan entry and its pick entry
are gone, a MISS with the reason is queued, a sweep follows, a THROTTLED station leaves THROTTLED when THROTTLE_ON less
HYST entries or fewer are left, and the other build, both built surfaces and everything outside the plan lists and the
claim unit are as before (R37, R86, R87, R102, R104). The entry of a tag is the first of its list that holds it. -/
def Obligations.UnpickedCasesAreGivenUp : Prop :=
  (∀ (s : State) (tag : Tag) (p : PickEntry), findPick tag s = some p ↔
    ∃ older newer, s.pick = older ++ p :: newer ∧ p.tag = tag ∧ ∀ q ∈ older, q.tag ≠ tag) ∧
  (∀ (s : State) (b : BuildId) (tag : Tag) (e : PlanEntry), findEntry b tag s = some e ↔
    ∃ older newer, (s.build b).plan = older ++ e :: newer ∧ e.tag = tag ∧ ∀ q ∈ older, q.tag ≠ tag) ∧
  ∀ (s : State) (tag : Tag) (p : PickEntry) (e : PlanEntry), findPick tag s = some p →
    findEntry p.build tag s = some e → e.state = .won → s.station ≠ .silent → s.txQueue.length < 8 →
    ∀ (cmd : Instr) (k : PosKind) (reason : MissReason),
      (cmd = .eyeWindowEnd tag ∧ k = .eyeWindowEnd ∧ reason = .absent ∨
        cmd = .pickClosePoint tag ∧ k = .pickClose ∧ reason = .lapsed) →
      EventRaised s k tag →
      ∃ t, exec cmd s = .next t ∧ (∀ q ∈ t.pick, q.tag ≠ tag) ∧ (∀ x ∈ (t.build p.build).plan, x.tag ≠ tag) ∧
        TxFrame.fresh (.miss tag reason) ∈ t.txQueue ∧ t.sweep.isSome = true ∧
        t.counters.absent = (if reason = .absent then min (s.counters.absent + 1) 255 else s.counters.absent) ∧
        t.counters.lapsed = (if reason = .lapsed then min (s.counters.lapsed + 1) 255 else s.counters.lapsed) ∧
        (∀ c, c ≠ p.build → t.build c = s.build c) ∧ (t.build p.build).built = (s.build p.build).built ∧
        (t.throttled = true ↔ s.throttled = true ∧ s.own2.throttleOn - s.own2.hyst < t.pick.length) ∧
        t = { s with
          txQueue := t.txQueue, positions := t.positions, track := t.track, throttled := t.throttled,
          sweep := t.sweep, pendingSweep := t.pendingSweep, buildA := t.buildA, buildB := t.buildB, pick := t.pick,
          counters := t.counters, beacons := t.beacons }

/-! ### The contest (chapters 1 and 2) -/

/-- SEND_DEADLINE: deadline passed becomes yes. A QUEUED record whose claim is not in transmission returns to UNBID with
own bid cleared, its claim is held no more and its entry is gone; one in transmission stays QUEUED and is not offered
again after a failure; in every other state the record keeps its state (R12, R27, R29). The marks on a queued
frame are those of log entry 16. -/
def Obligations.SendDeadlineTakesBackTheBid : Prop :=
  ∀ (s : State) (tag : Tag) (r : TrackRecord), EventRaised s .sendDeadline tag → findRecord tag s = some r →
    ∃ t, exec (.sendDeadline tag) s = .next t ∧
      (r.state ≠ .queued → findRecord tag t = some { r with deadlinePassed := true } ∧
        t = { s with positions := t.positions, track := t.track, beacons := t.beacons }) ∧
      (r.state = .queued → claimInTransmission tag s = true →
        findRecord tag t = some { r with deadlinePassed := true } ∧
        (∀ f ∈ t.txQueue, f.isOwnClaim tag = true → f.noRetry = true) ∧
        t = { s with positions := t.positions, track := t.track, txQueue := t.txQueue, beacons := t.beacons }) ∧
      (r.state = .queued → claimInTransmission tag s = false →
        findRecord tag t = some { r with deadlinePassed := true, state := .unbid, bid := none } ∧
        (∀ f ∈ t.txQueue, f.isOwnClaim tag = false) ∧
        (∀ o, r.bid = some o → ∀ e ∈ (t.build o.build).plan, e.tag ≠ tag) ∧
        (∀ b, (∀ o, r.bid = some o → o.build ≠ b) → t.build b = s.build b) ∧
        t = { s with
          txQueue := t.txQueue, positions := t.positions, track := t.track, throttled := t.throttled,
          sweep := t.sweep, pendingSweep := t.pendingSweep, buildA := t.buildA, buildB := t.buildB, pick := t.pick,
          counters := t.counters, beacons := t.beacons }) ∧
      (∀ q ∈ t.positions, ¬ (q.kind = .sendDeadline ∧ q.tag = tag))

/-- CLOSE_POINT of a SENT record whose own bid is best: the case is WON. Its plan entry becomes WON, a pick entry in
AWAIT EYE joins the tail of the pick order list with its window, the window end is registered, and the record leaves;
with THROTTLE_ON entries the station is THROTTLED (R14, R31, R33, R37, R38, R99, R100; log entry 24). A send deadline
that is raised too is taken before the close point, and changes nothing else here (R4, log entry 4). -/
def Obligations.BestSentClaimWinsAtClose : Prop :=
  ∀ (s : State) (tag : Tag) (r : TrackRecord) (o : OwnBid), EventRaised s .closePoint tag →
    findRecord tag s = some r → r.state = .sent → r.bid = some o →
    (∀ c, r.best = some c → ¬ BetterClaim c o.score s.number) →
    (∀ f ∈ s.rxBuffer, kindOf f = 1 → wordAt f.payload 0 = tag → ¬ BetterClaim (heardOf f) o.score s.number) →
    ∃ t, exec (.closePoint tag) s = .next t ∧ t.track = s.track.filter (fun x => x.tag != tag) ∧
      t.pick = s.pick ++ [⟨tag, o.build, r.desc.stamp, r.desc.stamp + s.own1.eyeDist,
        r.desc.stamp + s.own1.eyeDist - s.own1.eyeTol, r.desc.stamp + s.own1.eyeDist + s.own1.eyeTol, .awaitEye⟩] ∧
      (∃ q ∈ t.positions, q.kind = .eyeWindowEnd ∧ q.tag = tag ∧
        q.value = r.desc.stamp + s.own1.eyeDist + s.own1.eyeTol) ∧
      (∀ q ∈ t.positions, q.tag = tag → q.kind ≠ .closePoint ∧ q.kind ≠ .sendDeadline) ∧
      t.build o.build = { s.build o.build with
        plan := (s.build o.build).plan.map (fun e => if e.tag = tag then { e with state := .won } else e) } ∧
      (∀ c, c ≠ o.build → t.build c = s.build c) ∧ t.txQueue.map TxFrame.body = s.txQueue.map TxFrame.body ∧
      (t.throttled = true ↔
        s.throttled = true ∨ (s.own2.throttleOn ≠ 0 ∧ s.own2.throttleOn ≤ s.pick.length + 1)) ∧
      (t.throttleSeen = true ↔ s.throttleSeen = true ∨ (s.throttled = false ∧ t.throttled = true)) ∧
      t = { s with
        track := t.track, pick := t.pick, positions := t.positions, buildA := t.buildA, buildB := t.buildB,
        txQueue := t.txQueue, sweep := t.sweep, throttled := t.throttled, throttleSeen := t.throttleSeen,
        beacons := t.beacons }

/-- The other closes of the table of R34; in each the record leaves the track list. UNBID and LOST are only removed.
QUEUED: the plan entry is withdrawn, and no queued frame is the record's claim any more. SENT and outbid: the entry is
withdrawn, CLAIM LOST is counted, no MISS is offered. UNBACKED with its claim in transmission, or outbid: only removed.
UNBACKED, own bid best: a fresh placement on the own bid's build puts a WON entry at the tail of its plan list and of
the pick order list, with no CLAIM; without one the case is FORFEIT, with its count and its MISS (R32 to R34, R37, R38,
R99, R100). A send deadline that is raised too is taken before the close point (R4, log entry 4). -/
def Obligations.UnwonCasesLeaveAtClose : Prop :=
  ∀ (s : State) (tag : Tag) (r : TrackRecord), EventRaised s .closePoint tag → findRecord tag s = some r →
    ∃ t, exec (.closePoint tag) s = .next t ∧
    t.track.map TrackRecord.tag = (s.track.filter (fun x => x.tag != tag)).map TrackRecord.tag ∧
    (∀ q ∈ t.positions, q.tag = tag → q.kind ≠ .closePoint ∧ q.kind ≠ .sendDeadline) ∧
    (r.state = .unbid ∨ r.state = .lost ∨ (r.state = .unbacked ∧ ∃ o, r.bid = some o ∧
        (claimInTransmission tag s = true ∨ Outbid s tag r o)) →
      t.track = s.track.filter (fun x => x.tag != tag) ∧
      t.txQueue.map TxFrame.body = s.txQueue.map TxFrame.body ∧
      t = { s with
        track := t.track, positions := t.positions, txQueue := t.txQueue, sweep := t.sweep, beacons := t.beacons }) ∧
    (∀ o, r.bid = some o → r.state = .queued ∨ (r.state = .sent ∧ Outbid s tag r o) →
      (∀ f ∈ t.txQueue, f.isOwnClaim tag = false) ∧ (∀ x ∈ (t.build o.build).plan, x.tag ≠ tag) ∧
      (∀ b, b ≠ o.build → t.build b = s.build b) ∧ t.pick.Sublist s.pick ∧
      (∀ m, TxBody.miss tag m ∈ t.txQueue.map TxFrame.body → TxBody.miss tag m ∈ s.txQueue.map TxFrame.body) ∧
      t.counters.claimLost =
        (if r.state = .sent then min (s.counters.claimLost + 1) 255 else s.counters.claimLost) ∧
      t = { s with
        txQueue := t.txQueue, positions := t.positions, track := t.track, throttled := t.throttled,
        sweep := t.sweep, pendingSweep := t.pendingSweep, buildA := t.buildA, buildB := t.buildB, pick := t.pick,
        counters := t.counters, beacons := t.beacons }) ∧
    (∀ o, r.state = .unbacked → r.bid = some o → claimInTransmission tag s = false → ¬ Outbid s tag r o →
      ((s.build o.build).state ≠ .opened ∨ s.credits o.build ≤ (s.build o.build).plan.length ∨
          buildCandidate s o.build r.desc = none) → s.station ≠ .silent → s.txQueue.length < 8 →
        t.track = s.track.filter (fun x => x.tag != tag) ∧
        t.txQueue.map TxFrame.body = s.txQueue.map TxFrame.body ++ [.miss tag .forfeit] ∧
        t.counters = { s.counters with forfeit := min (s.counters.forfeit + 1) 255 } ∧
        t = { s with
          track := t.track, positions := t.positions, txQueue := t.txQueue, sweep := t.sweep,
          counters := t.counters, beacons := t.beacons }) ∧
    (∀ o c, r.state = .unbacked → r.bid = some o → claimInTransmission tag s = false → ¬ Outbid s tag r o →
      (s.build o.build).state = .opened → (s.build o.build).plan.length < s.credits o.build →
      buildCandidate s o.build r.desc = some c →
        t.track = s.track.filter (fun x => x.tag != tag) ∧
        t.pick = s.pick ++ [⟨tag, o.build, r.desc.stamp, r.desc.stamp + s.own1.eyeDist,
          r.desc.stamp + s.own1.eyeDist - s.own1.eyeTol, r.desc.stamp + s.own1.eyeDist + s.own1.eyeTol, .awaitEye⟩] ∧
        (∃ q ∈ t.positions, q.kind = .eyeWindowEnd ∧ q.tag = tag ∧
          q.value = r.desc.stamp + s.own1.eyeDist + s.own1.eyeTol) ∧
        (∃ e, e.tag = tag ∧ e.line = c.line ∧ e.foot = c.found.foot ∧ e.turned = c.found.turned ∧
          e.base = c.found.base ∧ e.h = r.desc.h ∧ e.weight = r.desc.weight ∧ e.rating = r.desc.rating ∧
          e.baseFlag = c.base ∧ e.state = .won ∧ e.uncertain = none ∧
          t.build o.build = { s.build o.build with
            plan := (s.build o.build).plan ++ [e]
            planned := (s.build o.build).planned.apply e.foot e.h e.weight e.rating
            lines := (s.build o.build).lines.modify e.line (fun l => { l with planned := l.planned + 1 }) }) ∧
        (∀ b, b ≠ o.build → t.build b = s.build b) ∧ t.txQueue.map TxFrame.body = s.txQueue.map TxFrame.body ∧
        (t.throttled = true ↔
          s.throttled = true ∨ (s.own2.throttleOn ≠ 0 ∧ s.own2.throttleOn ≤ s.pick.length + 1)) ∧
        (t.throttleSeen = true ↔ s.throttleSeen = true ∨ (s.throttled = false ∧ t.throttled = true)) ∧
        t = { s with
          track := t.track, pick := t.pick, positions := t.positions, buildA := t.buildA, buildB := t.buildB,
          txQueue := t.txQueue, sweep := t.sweep, throttled := t.throttled, throttleSeen := t.throttleSeen,
          beacons := t.beacons })

/-- The law of R33: a case joins the pick order list at its close point only if its record was SENT or UNBACKED and no
claim for its tag that was heard, or is still in the receive buffer, is better than the own bid. -/
def Obligations.OnlyTheBestClaimIsWon : Prop :=
  ∀ (s t : State) (tag : Tag), exec (.closePoint tag) s = .next t → (∀ p ∈ s.pick, p.tag ≠ tag) →
    (∃ p ∈ t.pick, p.tag = tag) →
    ∃ r o, findRecord tag s = some r ∧ (r.state = .sent ∨ r.state = .unbacked) ∧ r.bid = some o ∧
      (∀ c, r.best = some c → ¬ BetterClaim c o.score s.number) ∧
      (∀ f ∈ s.rxBuffer, kindOf f = 1 → wordAt f.payload 0 = tag → ¬ BetterClaim (heardOf f) o.score s.number)

/-- CASE_NOTICE: in AWAIT CONFIG, STALLED and SILENT the notice is ignored with no count (R6). In RUN and PAUSED: the
field checks, then a tag already held, then a close point already reached, then 24 records held, each ignored and
counted with its own counter alone (R7 to R10); a notice that passes them is appended with its clamped descriptor (R7),
its close point registered, and its send deadline registered where that is not reached yet (R11). R11's words register
both positions; that a send deadline already reached is taken at once and waits for no command is the model's choice
(log entry 3). -/
def Obligations.NoticesAreCheckedInOrder : Prop :=
  ∀ (s : State) (f : Frame) (rest : List Frame) (d : CaseDesc) (tag : Tag), s.rxBuffer = f :: rest → kindOf f = 0 →
    d = ⟨(wordAt f.payload 4).toNat, (byteAt f.payload 6).toNat / 16, (byteAt f.payload 6).toNat % 16,
      (byteAt f.payload 7).toNat, (wordAt f.payload 8).toNat, (byteAt f.payload 10).toNat,
      (byteAt f.payload 11).toNat % 2 == 1, wordAt f.payload 2⟩ →
    tag = wordAt f.payload 0 →
    ∃ t, exec .caseNotice s = .next t ∧
      if s.station = .awaitConfig ∨ s.station = .stalled ∨ s.station = .silent then
        t = { s with rxBuffer := rest, beacons := t.beacons }
      else if ¬ (1 ≤ d.article ∧ d.article ≤ 4095 ∧ 1 ≤ d.w ∧ d.w ≤ 3 ∧ 1 ≤ d.d ∧ d.d ≤ 3 ∧ d.h ≤ 120 ∧
          d.weight ≤ 1023) then
        t = { s with
          rxBuffer := rest, counters := { s.counters with badNotice := min (s.counters.badNotice + 1) 255 },
          beacons := t.beacons }
      else if ∃ r ∈ s.track, r.tag = tag then
        t = { s with
          rxBuffer := rest, counters := { s.counters with dupNotice := min (s.counters.dupNotice + 1) 255 },
          beacons := t.beacons }
      else if (s.belt - (d.stamp + s.line.closeDist)).toNat < 32768 then
        t = { s with
          rxBuffer := rest, counters := { s.counters with lateNotice := min (s.counters.lateNotice + 1) 255 },
          beacons := t.beacons }
      else if 24 ≤ s.track.length then
        t = { s with
          rxBuffer := rest, counters := { s.counters with trackFull := min (s.counters.trackFull + 1) 255 },
          beacons := t.beacons }
      else
        ∃ r, t.track = s.track ++ [r] ∧ r.tag = tag ∧
          r.desc = { d with h := max d.h 10, weight := max d.weight 1 } ∧ r.closeAt = d.stamp + s.line.closeDist ∧
          r.deadlineAt = d.stamp + s.line.closeDist - s.line.guardDist ∧
          (r.deadlinePassed = true ↔ (s.belt - (d.stamp + s.line.closeDist - s.line.guardDist)).toNat < 32768) ∧
          (r.deadlinePassed = true → r.state = .unbid ∧ r.bid = none) ∧ r.best = none ∧
          t.positions = s.positions ++ (⟨.closePoint, tag, r.closeAt, false⟩ ::
            (if r.deadlinePassed then [] else [⟨.sendDeadline, tag, r.deadlineAt, false⟩])) ∧
          (r.state = .unbid → t.txQueue = s.txQueue ∧ t.buildA = s.buildA ∧ t.buildB = s.buildB) ∧
          t = { s with
            rxBuffer := rest, track := t.track, positions := t.positions, txQueue := t.txQueue, buildA := t.buildA,
            buildB := t.buildB, beacons := t.beacons }

/-- CASE_NOTICE of a case that a build wants: the station's candidate is bid. A CONTESTED entry at the tail of the plan
list is applied to the planned surface, the line's planned count rises, a CLAIM with the score is queued and the record
is QUEUED with its own bid (R11, R21 to R23). The station's candidate is the one that an eligible build offers and that
no other beats: the lower score, build A at equal scores (R18, R21); what a build offers is the lowest-index line with
an open count and the search on the planned surface, under the deck reserve (R21, R49, R50). A tag is planned when an
entry of either plan list holds it (R19). -/
def Obligations.WantedNoticeIsBid : Prop :=
  (∀ (s : State) (d : CaseDesc) (c : Candidate),
    (stationCandidate s d = some c ↔ EligibleToBid s c.build ∧ OffersCandidate s d c ∧
      ∀ c', EligibleToBid s c'.build → OffersCandidate s d c' →
        c.found.score < c'.found.score ∨ c.found.score = c'.found.score ∧ (c.build = .A ∨ c'.build = .B)) ∧
    (∀ b, buildCandidate s b d = some c ↔ c.build = b ∧ OffersCandidate s d c)) ∧
  (∀ (s : State) (tag : Tag), tagPlanned tag s = true ↔ ∃ b, ∃ e ∈ (s.build b).plan, e.tag = tag) ∧
  ∀ (s : State) (f : Frame) (rest : List Frame) (raw d : CaseDesc) (tag : Tag) (c : Candidate),
    s.rxBuffer = f :: rest → kindOf f = 0 → s.station = .run →
    raw = ⟨(wordAt f.payload 4).toNat, (byteAt f.payload 6).toNat / 16, (byteAt f.payload 6).toNat % 16,
      (byteAt f.payload 7).toNat, (wordAt f.payload 8).toNat, (byteAt f.payload 10).toNat,
      (byteAt f.payload 11).toNat % 2 == 1, wordAt f.payload 2⟩ →
    d = { raw with h := max raw.h 10, weight := max raw.weight 1 } → tag = wordAt f.payload 0 →
    1 ≤ raw.article → raw.article ≤ 4095 → 1 ≤ raw.w → raw.w ≤ 3 → 1 ≤ raw.d → raw.d ≤ 3 → raw.h ≤ 120 →
    raw.weight ≤ 1023 → (∀ r ∈ s.track, r.tag ≠ tag) → 32768 ≤ (s.belt - (d.stamp + s.line.closeDist)).toNat →
    s.track.length < 24 → 32768 ≤ (s.belt - (d.stamp + s.line.closeDist - s.line.guardDist)).toNat →
    (∀ b, ∀ e ∈ (s.build b).plan, e.tag ≠ tag) →
    stationCandidate s d = some c → (s.throttled = true → c.found.score < s.own2.throttleCut) →
    ∃ t r, exec .caseNotice s = .next t ∧ t.track = s.track ++ [r] ∧ r.tag = tag ∧ r.desc = d ∧ r.state = .queued ∧
      r.bid = some ⟨c.build, c.found.score, true⟩ ∧
      t.txQueue = s.txQueue ++ [⟨.claim tag c.found.score c.build, false, false, true⟩] ∧
      (∃ e, e.tag = tag ∧ e.line = c.line ∧ e.foot = c.found.foot ∧ e.turned = c.found.turned ∧
        e.base = c.found.base ∧ e.h = d.h ∧ e.weight = d.weight ∧ e.rating = d.rating ∧ e.baseFlag = c.base ∧
        e.state = .contested ∧ e.uncertain = none ∧
        t.build c.build = { s.build c.build with
          plan := (s.build c.build).plan ++ [e]
          planned := (s.build c.build).planned.apply e.foot e.h e.weight e.rating
          lines := (s.build c.build).lines.modify e.line (fun l => { l with planned := l.planned + 1 }) }) ∧
      (∀ b, b ≠ c.build → t.build b = s.build b) ∧
      t = { s with
        rxBuffer := rest, track := t.track, positions := t.positions, txQueue := t.txQueue, buildA := t.buildA,
        buildB := t.buildB, beacons := t.beacons }

/-- CLAIM: a claim for no record, or one not better than best heard, changes nothing; a better one becomes the record's
best heard, and where it is not better than the own bid of a QUEUED or SENT record nothing else changes (R13). The
record of a tag is the first that holds it. -/
def Obligations.HeardClaimsAreCompared : Prop :=
  (∀ (s : State) (tag : Tag) (r : TrackRecord), findRecord tag s = some r ↔
    ∃ older newer, s.track = older ++ r :: newer ∧ r.tag = tag ∧ ∀ q ∈ older, q.tag ≠ tag) ∧
  ∀ (s : State) (f : Frame) (rest : List Frame) (tag : Tag) (c : Heard), s.rxBuffer = f :: rest → kindOf f = 1 →
    tag = wordAt f.payload 0 → c = ⟨(wordAt f.payload 2).toNat, f.ident.toNat % 16⟩ →
    ∃ t, exec .claim s = .next t ∧
      (findRecord tag s = none → t = { s with rxBuffer := rest, beacons := t.beacons }) ∧
      (∀ r b, findRecord tag s = some r → r.best = some b → ¬ BetterClaim c b.score b.station →
        t = { s with rxBuffer := rest, beacons := t.beacons }) ∧
      (∀ r, findRecord tag s = some r → (∀ b, r.best = some b → BetterClaim c b.score b.station) →
        (r.state = .queued ∨ r.state = .sent → ∀ o, r.bid = some o → ¬ BetterClaim c o.score s.number) →
        findRecord tag t = some { r with best := some c } ∧
        t.track.filter (fun x => x.tag != tag) = s.track.filter (fun x => x.tag != tag) ∧
        t = { s with rxBuffer := rest, track := t.track, beacons := t.beacons })

/-- CLAIM better than the own bid of a QUEUED or SENT record: the record is LOST, its entry is gone, a held claim of it
is in transmission or gone, CLAIM LOST is counted and a sweep follows; the other build is untouched (R13, R28). -/
def Obligations.BetterClaimLosesTheContest : Prop :=
  ∀ (s : State) (f : Frame) (rest : List Frame) (tag : Tag) (c : Heard) (r : TrackRecord) (o : OwnBid) (e : PlanEntry),
    s.rxBuffer = f :: rest → kindOf f = 1 → tag = wordAt f.payload 0 →
    c = ⟨(wordAt f.payload 2).toNat, f.ident.toNat % 16⟩ → findRecord tag s = some r →
    (r.state = .queued ∨ r.state = .sent) → r.bid = some o → findEntry o.build tag s = some e →
    (∀ b, r.best = some b → BetterClaim c b.score b.station) → BetterClaim c o.score s.number →
    ∃ t, exec .claim s = .next t ∧
      findRecord tag t = some { r with
        state := .lost, best := some c, bid := some { o with hasEntry := false } } ∧
      (∀ x ∈ (t.build o.build).plan, x.tag ≠ tag) ∧ (∀ b, b ≠ o.build → t.build b = s.build b) ∧
      (r.state = .queued → ∀ g ∈ t.txQueue, g.isOwnClaim tag = true → g.inTransmission = true) ∧
      t.counters.claimLost = min (s.counters.claimLost + 1) 255 ∧ t.sweep.isSome = true ∧
      t = { s with
        rxBuffer := rest, txQueue := t.txQueue, positions := t.positions, track := t.track, throttled := t.throttled,
        sweep := t.sweep, pendingSweep := t.pendingSweep, buildA := t.buildA, buildB := t.buildB, pick := t.pick,
        counters := t.counters, beacons := t.beacons }

/-- SWEEP_OFFER: a record that may not be bid, that has no candidate, or whose candidate is not better than its best
heard or, while THROTTLED, not below THROTTLE_CUT, is left unchanged and the sweep goes on behind it, with no count; at
the end of the list a pending sweep starts again from the oldest record (R19, R20, R22). A record with a candidate that
passes is bid (R22, R23). That a sweep ends in the command that offers its last record is the model's choice (log entry
12). -/
def Obligations.SweepOffersTheNextRecord : Prop :=
  ∀ (s : State) (i : Nat) (r : TrackRecord), s.sweep = some i → s.track[i]? = some r →
    ∃ t, exec .sweepOffer s = .next t ∧
      t.sweep = (if i + 1 < s.track.length then some (i + 1) else if s.pendingSweep then some 0 else none) ∧
      t.pendingSweep = (if i + 1 < s.track.length then s.pendingSweep else false) ∧
      (r.state ≠ .unbid ∨ r.deadlinePassed = true ∨ tagPlanned r.tag s = true ∨ stationCandidate s r.desc = none ∨
          (∃ c, stationCandidate s r.desc = some c ∧
            ((∃ b, r.best = some b ∧ ¬ BetterClaim ⟨c.found.score, s.number⟩ b.score b.station) ∨
              (s.throttled = true ∧ s.own2.throttleCut ≤ c.found.score))) →
        t = { s with sweep := t.sweep, pendingSweep := t.pendingSweep, beacons := t.beacons }) ∧
      (∀ c, r.state = .unbid → r.deadlinePassed = false → tagPlanned r.tag s = false →
        stationCandidate s r.desc = some c → TrackTagsDistinct s →
        (∀ b, r.best = some b → BetterClaim ⟨c.found.score, s.number⟩ b.score b.station) →
        (s.throttled = true → c.found.score < s.own2.throttleCut) →
        findRecord r.tag t = some { r with state := .queued, bid := some ⟨c.build, c.found.score, true⟩ } ∧
        t.txQueue = s.txQueue ++ [⟨.claim r.tag c.found.score c.build, false, false, true⟩] ∧
        (∃ e ∈ (t.build c.build).plan, e.tag = r.tag ∧ e.state = .contested) ∧
        (∀ b, b ≠ c.build → t.build b = s.build b) ∧
        t = { s with
          sweep := t.sweep, pendingSweep := t.pendingSweep, track := t.track, txQueue := t.txQueue,
          buildA := t.buildA, buildB := t.buildB, beacons := t.beacons })

/-! ### The depot line (chapters 1, 2, 10 and 12) -/

/-- FRAME_RECEPTION: a frame that the line interface discards changes nothing; one that is no duplicate enters the
receive buffer behind the frames held, or is lost and counted when 16 are held (R5, R162, R175). A frame is the
station's own only where the command says so and it is the frame that the station has sent and not yet received back,
before or after its completion is taken (R25, R162); it is received back once. How the model keeps that frame is log
entry 35. Discarded are the kinds 6 and 7, the unlisted codes of the kinds 3 and 5, a payload below the required length
of its kind and code, and a CLAIM or MISS with station detail 0 or 13 to 15 (R175); a MISS with a detail above 15 and a
kind 4 frame of an unlisted code are taken (log entries 21 and 22). The station-sourced kinds carry their number at the
places of R162. Kind, detail, target and code are read from the identifier, and fields of more than a byte most
significant byte first (12 section 12.1, R176). -/
def Obligations.ReceivedFramesAreBuffered : Prop :=
  (∀ (p : List Byte) (i : Nat), byteAt p i = p.getD i 0 ∧
    (wordAt p i).toNat = 256 * (byteAt p i).toNat + (byteAt p (i + 1)).toNat ∧
    (longAt p i).toNat = 65536 * (wordAt p i).toNat + (wordAt p (i + 2)).toNat) ∧
  (∀ (f : Frame) (k d : Nat), f.ident.toNat = k * 256 + d → d < 256 →
    (kindOf f = k ∧ detailOf f = d ∧ lowCode f = d % 16 ∧ highNibble f = d / 16 ∧
      (∀ kind code, isCode kind code f = true ↔ k = kind ∧ d % 16 = code) ∧
      (∀ code, isStartUp code f = true ↔ k = 5 ∧ d / 16 = code)) ∧
    (frameAccepted f = true ↔ ∃ need, need ≤ f.payload.length ∧
      (k = 0 ∧ need = 12 ∨
        k = 1 ∧ need = 5 ∧ 1 ≤ d % 16 ∧ d % 16 ≤ 12 ∨
        k = 2 ∧ need = 3 ∧ d ≠ 0 ∧ ¬ (13 ≤ d ∧ d ≤ 15) ∨
        k = 3 ∧ (d % 16, need) ∈
          [(1, 11), (2, if 1 ≤ (byteAt f.payload 2).toNat ∧ (byteAt f.payload 2).toNat ≤ 4
            then 3 + 3 * (byteAt f.payload 2).toNat else 3), (3, 1), (4, 1), (5, 1), (8, 2), (9, 2), (12, 1), (13, 1)] ∨
        k = 4 ∧ ((d % 16, need) ∈ [(0, 5), (1, 12), (2, 16), (3, 11), (4, 12), (5, 13)] ∨ 5 < d % 16 ∧ need = 0) ∨
        k = 5 ∧ (d / 16, need) ∈ [(0, 0), (1, 14), (2, 14), (3, 11), (4, 7), (5, 3)])) ∧
    sourceStation f =
      (if k = 1 then some (d % 16) else if k = 2 then some d else if k = 4 then some (d / 16)
        else if k = 5 ∧ (d / 16 = 4 ∨ d / 16 = 5) then some (byteAt f.payload 0).toNat else none)) ∧
  ∀ (s : State) (f : Frame) (own : Bool), ∃ t, exec (.frameReception f own) s = .next t ∧
    (frameAccepted f = false → t = { s with beacons := t.beacons }) ∧
    t.ownSent = (if frameAccepted f = true ∧ own = true ∧ s.ownSent = some f then none else s.ownSent) ∧
    (frameAccepted f = true →
      ((own = true ∧ s.ownSent = some f) ∨ s.station = .silent ∨ s.stationNumber = none ∨
        sourceStation f ≠ s.stationNumber) →
      (s.rxBuffer.length < 16 → t = { s with
        rxBuffer := s.rxBuffer ++ [f], ownSent := t.ownSent, beacons := t.beacons }) ∧
      (16 ≤ s.rxBuffer.length → t = { s with
        counters := { s.counters with rxLost := min (s.counters.rxLost + 1) 255 }, ownSent := t.ownSent,
        beacons := t.beacons }))

/-- FRAME_RECEPTION of another node's frame with this station's number: the station enters SILENT, its transmit queue
is emptied, pause timer and pairing end, the STOP fault is recorded, F, P and the configuration are kept, and the frame
enters the receive buffer (R162, R163). A frame that is not the one this station has sent and not yet received back
is another node's, whatever the command says of it (log entry 35). -/
def Obligations.DuplicateNumberSilencesTheStation : Prop :=
  ∀ (s : State) (f : Frame) (own : Bool), frameAccepted f = true → (own = false ∨ s.ownSent ≠ some f) →
    s.station ≠ .silent → s.stationNumber ≠ none →
    sourceStation f = s.stationNumber → s.ctx = none → LineCarriesOne s → s.rxBuffer.length < 16 →
    ∃ t, exec (.frameReception f own) s = .next t ∧ t.station = .silent ∧ t.txQueue = [] ∧ t.pauseTimer = none ∧
      t.pairing = none ∧ t.rxBuffer = s.rxBuffer ++ [f] ∧ t.pick.Sublist s.pick ∧ SameConfig s t ∧
      (s.fault.valid = false →
        t.fault = ⟨true, false, .stop, some .duplicateNumber, none, none, s.belt, s.timeBase⟩) ∧
      (s.fault.valid = true → s.fault.severity = .attn →
        t.fault = ⟨true, s.fault.overflow, .stop, some .duplicateNumber, none, none, s.belt, s.timeBase⟩) ∧
      (s.fault.valid = true → s.fault.severity = .stop → t.fault = { s.fault with overflow := true }) ∧
      t = { s with
        station := t.station, pauseTimer := t.pauseTimer, pairing := t.pairing, rxBuffer := t.rxBuffer,
        txQueue := t.txQueue, positions := t.positions, track := t.track, throttled := t.throttled,
        sweep := t.sweep, pendingSweep := t.pendingSweep, buildA := t.buildA, buildB := t.buildB, pick := t.pick,
        fault := t.fault, counters := t.counters, beacons := t.beacons }

/-- MISS frames, kind 4 frames, HELLO and READY need no action: they only leave the receive buffer (R5, R175). -/
def Obligations.FramesWithoutActionAreRemoved : Prop :=
  ∀ (s : State) (f : Frame) (rest : List Frame), s.rxBuffer = f :: rest →
    (kindOf f = 2 → ∃ t, exec .miss s = .next t ∧ t = { s with rxBuffer := rest, beacons := t.beacons }) ∧
    (kindOf f = 4 ∨ kindOf f = 5 ∧ (highNibble f = 4 ∨ highNibble f = 5) →
      ∃ t, exec .replyReportHelloReady s = .next t ∧ t = { s with rxBuffer := rest, beacons := t.beacons })

/-- ARBITRATION won on a free line: the held frame with the lowest identifier, the earliest placed among equals, is in
transmission, the line carries it, and the station will receive it back as its own; lost, or with a frame on the line or
in SILENT, nothing changes (R24, R25, R163; log entry 35). Every frame has the identifier and the bytes of chapter 12,
padded with bytes of 0 to the next payload size of the line (R176); the tag bytes of an absent tag are those of log
entry 9, the revision and serial number those of the part. -/
def Obligations.LowestIdentifierIsSent : Prop :=
  (∀ (n : Nat) (b : TxBody), ∃ k, b.frame n = ⟨BitVec.ofNat 11 (b.identNat n), b.payload n ++ List.replicate k 0⟩ ∧
    ((b.payload n).length ≤ 8 → k = 0) ∧
    (9 ≤ (b.payload n).length → (b.payload n).length ≤ 12 → (b.payload n).length + k = 12) ∧
    (13 ≤ (b.payload n).length → (b.payload n).length ≤ 16 → (b.payload n).length + k = 16)) ∧
  (∀ (n : Nat) (b1 w2 w4 : Nat → List Byte) (bld : BuildId → Nat) (flags : FaultRecord → Nat),
    (∀ x, b1 x = [BitVec.ofNat 8 x]) → (∀ x, w2 x = [BitVec.ofNat 8 (x / 256), BitVec.ofNat 8 x]) →
    (∀ x, w4 x = w2 (x / 65536) ++ w2 x) → bld .A = 0 → bld .B = 1 →
    (∀ r, flags r = r.valid.toNat + 2 * r.overflow.toNat + (if r.severity = .stop then 4 else 0) +
      8 * r.tag.isSome.toNat) →
    (∀ tag score b, (TxBody.claim tag score b).identNat n = 256 + score / 4096 * 16 + n ∧
      (TxBody.claim tag score b).payload n = w2 tag.toNat ++ w2 score ++ b1 (bld b)) ∧
    (∀ tag r i, (r, i) ∈ [(MissReason.lapsed, 1), (.absent, 2), (.forfeit, 3), (.withdrawn, 4), (.notPicked, 5),
        (.cancelled, 6)] →
      (TxBody.miss tag r).identNat n = 512 + n ∧ (TxBody.miss tag r).payload n = w2 tag.toNat ++ b1 i) ∧
    (∀ kind code b r i next, (r, i) ∈ [(ReplyCode.accepted, 0), (.notUsed, 1), (.busy, 2), (.data, 3), (.sequence, 4),
        (.locked, 5), (.notReady, 6), (.noOrder, 7), (.noPrepare, 8)] →
      (TxBody.reply kind code b r next).identNat n = 1024 + 16 * n ∧
      (TxBody.reply kind code b r next).payload n = [kind, code] ++ b1 ((b.map bld).getD 255) ++ b1 i ++ [next]) ∧
    (∀ b ref placed weight verified, (TxBody.palletDone b ref placed weight verified).identNat n = 1024 + 16 * n + 1 ∧
      (TxBody.palletDone b ref placed weight verified).payload n =
        b1 (bld b) ++ w4 ref.toNat ++ w2 placed ++ w4 weight ++ b1 verified.toNat) ∧
    (∀ (r : BuildReport) i, (r.state, i) ∈ [(BuildState.unused, 0), (.empty, 1), (.loading, 2), (.opened, 3),
        (.held, 4), (.closing, 5), (.swapping, 6)] →
      (TxBody.buildReport r).identNat n = 1024 + 16 * n + 2 ∧ ∃ m, m < 2 ^ 24 ∧
      (∀ j : Fin 24, m.testBit j.val = r.mismatch[j]) ∧
      (TxBody.buildReport r).payload n = b1 (128 * bld r.build + 16 * (r.planned % 8) + i) ++ w4 r.orderRef.toNat ++
        w2 r.placed ++ w2 r.opened ++ w4 (r.greatest % 2 ^ 9 * 2 ^ 23 + r.weight % 2 ^ 23) ++
        (b1 (m / 65536) ++ w2 m)) ∧
    (∀ (r : FaultRecord) i, (r.cause, i) ∈ [(none, 0), (some FaultCause.placeTimeout, 1), (some .verifyMismatch, 2),
        (some .scanTimeout, 3), (some .swapTimeout, 4), (some .overload, 5), (some .pause, 6), (some .stall, 7),
        (some .duplicateNumber, 8)] →
      (TxBody.faultReport r).identNat n = 1024 + 16 * n + 3 ∧
      (TxBody.faultReport r).payload n = b1 (flags r) ++ b1 i ++ b1 ((r.build.map bld).getD 255) ++
        w2 (r.tag.getD Config.absentTag).toNat ++ w2 r.belt.toNat ++ w4 r.time.toNat) ∧
    (∀ (r : Status1) i op, (r.station, i) ∈ [(StationState.awaitConfig, 0), (.run, 1), (.paused, 2), (.stalled, 3)] →
      (r.operation.map Prod.fst, op) ∈ [(none, 15), (some OpKind.place, 16), (some .scan, 32), (some .swap, 48)] →
      (TxBody.status1 r).identNat n = 1024 + 16 * n + 4 ∧
      ∃ a c, (r.stateA, a) ∈ [(BuildState.unused, 0), (.empty, 1), (.loading, 2), (.opened, 3), (.held, 4),
        (.closing, 5), (.swapping, 6)] ∧ (r.stateB, c) ∈ [(BuildState.unused, 0), (.empty, 1), (.loading, 2),
        (.opened, 3), (.held, 4), (.closing, 5), (.swapping, 6)] ∧
      (TxBody.status1 r).payload n = b1 i ++
        b1 (r.lineTaken.toNat + 2 * r.setup1Taken.toNat + 4 * r.setup2Taken.toNat + 8 * r.throttled.toNat +
          16 * r.throttleSeen.toNat + 32 * r.robotReady.toNat) ++
        b1 r.streak ++ b1 r.cycles ++ b1 (op + (r.operation.map (fun o => bld o.2)).getD 0) ++ b1 r.trackLength ++
        b1 r.pickLength ++ b1 r.planLengthA ++ b1 r.planLengthB ++ b1 (16 * a + c) ++
        b1 (r.scanA.due.toNat + 2 * r.scanA.inFlight.toNat + 4 * r.scanB.due.toNat + 8 * r.scanB.inFlight.toNat +
          16 * r.swapA.due.toNat + 32 * r.swapA.inFlight.toNat + 64 * r.swapB.due.toNat +
          128 * r.swapB.inFlight.toNat) ++ b1 (flags r.fault)) ∧
    (∀ c : Counters, (TxBody.status2 c).identNat n = 1024 + 16 * n + 5 ∧
      (TxBody.status2 c).payload n = [c.trackFull, c.lateNotice, c.badNotice, c.dupNotice, c.claimLost, c.forfeit,
        c.absent, c.lapsed, c.eyeOverrun, c.txDrop, c.rxLost, c.linkError, c.weightDeviation].map (BitVec.ofNat 8)) ∧
    (∀ a b c : Bool, (TxBody.hello a b c).identNat n = 1344 ∧
      (TxBody.hello a b c).payload n = b1 n ++ [Config.revision] ++ w4 Config.serialNumber.toNat ++
        b1 (a.toNat + 2 * b.toNat + 4 * c.toNat)) ∧
    (∀ a b : Nat, (TxBody.ready a b).identNat n = 1360 ∧ (TxBody.ready a b).payload n = b1 n ++ b1 a ++ b1 b)) ∧
  ∀ (s : State) (won : Bool), ∃ t, exec (.arbitration won) s = .next t ∧
    (won = false ∨ s.station = .silent ∨ s.txQueue = [] ∨ (∃ f ∈ s.txQueue, f.inTransmission = true) →
      t = { s with beacons := t.beacons }) ∧
    (won = true → s.station ≠ .silent → s.txQueue ≠ [] → (∀ f ∈ s.txQueue, f.inTransmission = false) →
      ∃ before f after, s.txQueue = before ++ f :: after ∧
        (∀ g ∈ before, f.body.identNat s.number < g.body.identNat s.number) ∧
        (∀ g ∈ after, f.body.identNat s.number ≤ g.body.identNat s.number) ∧
        t = { s with
          txQueue := before ++ { f with inTransmission := true } :: after
          ctx := some (f.body.frame s.number)
          ownSent := some (f.body.frame s.number)
          beacons := t.beacons })

/-- TRANSMISSION_COMPLETE removes the frame, and a QUEUED record whose own claim it was becomes SENT.
TRANSMISSION_FAILURE returns the frame to its place, or removes it when its record no longer calls for it; a QUEUED
record of a removed claim returns to UNBID with its entry gone, and no frame comes back from the line (R24, R25, R27;
log entry 35). The marks on a queued frame are those of log entry 16. A record's own claim is the linked CLAIM with its
tag. -/
def Obligations.TransmissionsEnd : Prop :=
  (∀ f : TxFrame, (f.isClaim = true ↔ ∃ tag score b, f.body = .claim tag score b) ∧
    ∀ tag, f.isOwnClaim tag = true ↔ f.linked = true ∧ ∃ score b, f.body = .claim tag score b) ∧
  (∀ (s : State) (tag : Tag), claimInTransmission tag s = true ↔
    ∃ f ∈ s.txQueue, f.isOwnClaim tag = true ∧ f.inTransmission = true) ∧
  ∀ (s : State) (before after : List TxFrame) (f : TxFrame), s.txQueue = before ++ f :: after →
    f.inTransmission = true → (∀ g ∈ before ++ after, g.inTransmission = false) →
    (∃ t, exec .transmissionComplete s = .next t ∧ t.txQueue = before ++ after ∧ t.ctx = none ∧
      (∀ tag r, f.isOwnClaim tag = true → findRecord tag s = some r →
        findRecord tag t = some (if r.state = .queued then { r with state := .sent } else r)) ∧
      ((∀ tag, f.isOwnClaim tag = false) → t.track = s.track) ∧
      t = { s with txQueue := t.txQueue, ctx := none, track := t.track, beacons := t.beacons }) ∧
    (∃ t, exec .transmissionFailure s = .next t ∧ t.ctx = none ∧ t.ownSent = none ∧
      (f.noRetry = false → t = { s with
        txQueue := before ++ { f with inTransmission := false } :: after, ctx := none, ownSent := none,
        beacons := t.beacons }) ∧
      (f.noRetry = true → (∀ tag, f.isOwnClaim tag = false) → t = { s with
        txQueue := before ++ after, ctx := none, ownSent := none, beacons := t.beacons }) ∧
      (∀ tag r, f.noRetry = true → f.isOwnClaim tag = true → findRecord tag s = some r →
        (r.state = .queued ∨ r.state = .unbacked → findRecord tag t = some { r with state := .unbid, bid := none }) ∧
        (r.state = .queued → ∀ o, r.bid = some o → ∀ e ∈ (t.build o.build).plan, e.tag ≠ tag) ∧
        (r.state ≠ .queued → t.txQueue = before ++ after ∧ t.buildA = s.buildA ∧ t.buildB = s.buildB) ∧
        t = { s with
          ctx := none, ownSent := none, txQueue := t.txQueue, positions := t.positions, track := t.track,
          throttled := t.throttled, sweep := t.sweep, pendingSweep := t.pendingSweep, buildA := t.buildA,
          buildB := t.buildB, pick := t.pick, counters := t.counters, beacons := t.beacons }))

/-! ### Orders (chapter 3) -/

/-- ORDER_OPEN on a build in EMPTY or LOADING with 1 to 32 lines: the clamped header is stored, no lines are held, the
build is in LOADING; ACCEPTED, and a BUILD REPORT only when the state changes (R44, R45). What a BUILD REPORT carries is
R42's; the build field is 0 for A and 1 for B, and any other value names neither (R176). -/
def Obligations.OrderOpenStartsLoading : Prop :=
  (∀ (b : BuildId) (x : Build), ∃ g, (∀ i : Fin 24, x.built.height[i] ≤ g) ∧ (∃ i : Fin 24, x.built.height[i] = g) ∧
    reportOf b x = ⟨b, x.state, (x.order.map OrderHeader.ref).getD 0, (x.lines.map (fun l => l.placed)).sum,
      (x.lines.map (fun l => l.planned)).sum, (x.lines.map (fun l => l.ordered - l.planned - l.placed)).sum, g,
      x.built.weight, x.mismatch⟩) ∧
  (∀ p : List Byte, buildField p =
    if (byteAt p 0).toNat = 0 then some .A else if (byteAt p 0).toNat = 1 then some .B else none) ∧
  ∀ (s : State) (f : Frame) (rest : List Frame) (b : BuildId), TakesBuildCommand s 1 f rest b →
    ((s.build b).state = .empty ∨ (s.build b).state = .loading) → 1 ≤ (byteAt f.payload 6).toNat →
    (byteAt f.payload 6).toNat ≤ 32 → s.txQueue.length ≤ 6 →
    ∃ t, exec .orderOpen s = .next t ∧
      t.build b = { s.build b with
        state := .loading
        order := some ⟨longAt f.payload 1, min (byteAt f.payload 5).toNat 7, (byteAt f.payload 6).toNat,
          max 100 (min (wordAt f.payload 7).toNat 400), min (byteAt f.payload 9).toNat 6, byteAt f.payload 10 != 0⟩
        lines := []
        nextLine := 0 } ∧
      (∀ c, c ≠ b → t.build c = s.build c) ∧
      t.txQueue = s.txQueue ++ TxFrame.fresh (.reply 3 1 (some b) .accepted 0) ::
        (if (s.build b).state = .empty then [TxFrame.fresh (.buildReport (reportOf b (t.build b)))] else []) ∧
      t = { s with
        rxBuffer := rest, pairing := none, txQueue := t.txQueue, buildA := t.buildA, buildB := t.buildB,
        beacons := t.beacons }

/-- ORDER_LINES that passes R46 on a build in LOADING: the lines are appended with nothing planned or placed, the next
line index rises, and the last line opens the build, with a BUILD REPORT and a sweep. The reply carries the next line
index (R46, R47). The port is held, so that the arbiter run at the entry to OPEN grants nothing. A line holds its BASE
flag in the top bit of two bytes, its article code in the rest, and its quantity in the third (12 section 12.3); it is
taken with planned and placed 0 (R47). -/
def Obligations.OrderLinesFillTheOrder : Prop :=
  (∀ p : List Byte, (orderLinesOf p).length = (byteAt p 2).toNat ∧
    ∀ k, k < (byteAt p 2).toNat → (orderLinesOf p)[k]? = some ⟨(wordAt p (3 + 3 * k)).toNat % 32768,
      decide (32768 ≤ (wordAt p (3 + 3 * k)).toNat), (byteAt p (5 + 3 * k)).toNat, 0, 0⟩) ∧
  ∀ (s : State) (f : Frame) (rest : List Frame) (b : BuildId) (o : OrderHeader), TakesBuildCommand s 2 f rest b →
    (s.build b).state = .loading → (s.build b).order = some o →
    (byteAt f.payload 1).toNat = (s.build b).nextLine → 1 ≤ (byteAt f.payload 2).toNat →
    (byteAt f.payload 2).toNat ≤ 4 → (byteAt f.payload 1).toNat + (byteAt f.payload 2).toNat ≤ o.lineCount →
    (∀ l ∈ orderLinesOf f.payload, 1 ≤ l.article ∧ l.article ≤ 4095 ∧ 1 ≤ l.ordered) → s.txQueue.length ≤ 6 →
    PortHeld s →
    ∃ t n, exec .orderLines s = .next t ∧ n = (s.build b).nextLine + (byteAt f.payload 2).toNat ∧
      t.build b = { s.build b with
        lines := (s.build b).lines ++ orderLinesOf f.payload
        nextLine := n
        state := if n = o.lineCount then .opened else .loading } ∧
      (∀ l ∈ orderLinesOf f.payload, l.planned = 0 ∧ l.placed = 0) ∧
      (∀ c, c ≠ b → t.build c = s.build c) ∧
      t.txQueue = s.txQueue ++ TxFrame.fresh (.reply 3 2 (some b) .accepted (BitVec.ofNat 8 n)) ::
        (if n = o.lineCount then [TxFrame.fresh (.buildReport (reportOf b (t.build b)))] else []) ∧
      (n = o.lineCount → t.sweep.isSome = true) ∧
      t = { s with
        rxBuffer := rest, pairing := none, txQueue := t.txQueue, buildA := t.buildA, buildB := t.buildB,
        sweep := t.sweep, pendingSweep := t.pendingSweep, beacons := t.beacons }

/-- ORDER_CANCEL: in LOADING the build enters EMPTY with its order discarded. In OPEN and HELD with an order and no
ending the CONTESTED and WON entries are withdrawn, the WON ones with MISS CANCELLED and without their pick entries, a
SENT record of a CONTESTED one and a QUEUED one with its claim in transmission UNBACKED, a QUEUED one not in
transmission UNBID; PLACING entries stay. While one
does, the ending is CANCEL and the build keeps its state and its order. Without one the cancel settles at once: EMPTY
with an all-deck grid, otherwise CLOSING with the final scan due; a rescan that is due stays due instead (log entry 26).
ACCEPTED is offered before the MISS frames of the withdrawals, and the settling offers a BUILD REPORT (R30, R55 to R57,
R86, R135). The port is held. -/
def Obligations.OrderCancelGivesUpTheOrder : Prop :=
  ∀ (s : State) (f : Frame) (rest : List Frame) (b : BuildId), TakesBuildCommand s 3 f rest b → PortHeld s →
    ((s.build b).plan = [] → s.txQueue.length ≤ 6 →
      ((s.build b).state = .loading ∨
        ((s.build b).state = .opened ∨ (s.build b).state = .held) ∧ (s.build b).order ≠ none ∧
          (s.build b).ending = .noEnding) →
      ∃ t, exec .orderCancel s = .next t ∧ (t.build b).ending = (s.build b).ending ∧
        ((s.build b).state = .loading ∨ (∀ i : Fin 24, (s.build b).built.height[i] = 0) →
          (t.build b).state = .empty ∧ (t.build b).order = none ∧ (t.build b).lines = []) ∧
        ((s.build b).state ≠ .loading → (∃ i : Fin 24, (s.build b).built.height[i] ≠ 0) →
          (t.build b).state = .closing ∧ (t.build b).order = (s.build b).order ∧
          (t.build b).lines = (s.build b).lines ∧
          (t.build b).scanDue = if (s.build b).scanDue = some .rescan then some .rescan else some .final) ∧
        (t.build b).built = (s.build b).built ∧ (∀ c, c ≠ b → t.build c = s.build c) ∧
        t.txQueue = s.txQueue ++ [TxFrame.fresh (.reply 3 3 (some b) .accepted 0),
          TxFrame.fresh (.buildReport (reportOf b (t.build b)))] ∧
        t = { s with
          rxBuffer := rest, pairing := none, txQueue := t.txQueue, buildA := t.buildA, buildB := t.buildB,
          beacons := t.beacons }) ∧
    (((s.build b).state = .opened ∨ (s.build b).state = .held) → (s.build b).order ≠ none →
      (s.build b).ending = .noEnding → ((s.build b).plan.map PlanEntry.tag).Nodup →
      s.txQueue.length + (s.build b).plan.length ≤ 6 →
      ∃ t, exec .orderCancel s = .next t ∧
        (∀ e, e ∈ (t.build b).plan ↔ e ∈ (s.build b).plan ∧ e.state = .placing) ∧
        (∀ e ∈ (s.build b).plan, e.state = .won →
          (∀ q ∈ t.pick, q.tag ≠ e.tag) ∧ TxFrame.fresh (.miss e.tag .cancelled) ∈ t.txQueue) ∧
        (∀ e ∈ (s.build b).plan, e.state = .contested → LosesEntry s t e.tag) ∧
        (∃ held new, t.txQueue = held ++ TxFrame.fresh (.reply 3 3 (some b) .accepted 0) :: new ∧
          (held.map TxFrame.body).Sublist (s.txQueue.map TxFrame.body) ∧
          (∀ g ∈ s.txQueue, g.isClaim = false → g ∈ held) ∧
          (∀ e ∈ (s.build b).plan, e.state = .won → TxFrame.fresh (.miss e.tag .cancelled) ∈ new)) ∧
        ((∃ e ∈ (s.build b).plan, e.state = .placing) → (t.build b).state = (s.build b).state ∧
          (t.build b).ending = .cancel ∧ (t.build b).order = (s.build b).order) ∧
        ((∀ e ∈ (s.build b).plan, e.state ≠ .placing) → (t.build b).ending = .noEnding ∧
          (t.build b).state =
            (if ∀ i : Fin 24, (s.build b).built.height[i] = 0 then BuildState.empty else .closing) ∧
          ((∀ i : Fin 24, (s.build b).built.height[i] = 0) →
            (t.build b).order = none ∧ (t.build b).lines = []) ∧
          ((∃ i : Fin 24, (s.build b).built.height[i] ≠ 0) → (t.build b).order = (s.build b).order ∧
            (t.build b).scanDue = if (s.build b).scanDue = some .rescan then some .rescan else some .final) ∧
          TxFrame.fresh (.buildReport (reportOf b (t.build b))) ∈ t.txQueue) ∧
        (t.build b).built = (s.build b).built ∧ (∀ c, c ≠ b → t.build c = s.build c) ∧
        t = { s with
          rxBuffer := rest, pairing := none, txQueue := t.txQueue, positions := t.positions, track := t.track,
          throttled := t.throttled, sweep := t.sweep, pendingSweep := t.pendingSweep, buildA := t.buildA,
          buildB := t.buildB, pick := t.pick, counters := t.counters, beacons := t.beacons })

/-- BUILD_RESUME on a build in HELD with an order, no ending and no rescan pending: a rescan becomes due, whatever scan
was due before; ACCEPTED, and the build stays in HELD (R54, R135). The port is held. -/
def Obligations.BuildResumeMakesARescanDue : Prop :=
  ∀ (s : State) (f : Frame) (rest : List Frame) (b : BuildId), TakesBuildCommand s 4 f rest b →
    s.txQueue.length ≤ 7 → PortHeld s → (s.build b).state = .held → (s.build b).order ≠ none →
    (s.build b).ending = .noEnding → (s.build b).scanDue ≠ some .rescan →
    (∀ g, (s.build b).scanInFlight = some g → g.kind ≠ .rescan) →
    ∃ t, exec .buildResume s = .next t ∧ t.build b = { s.build b with scanDue := some .rescan } ∧
      (∀ c, c ≠ b → t.build c = s.build c) ∧
      t = { s with
        rxBuffer := rest, pairing := none, buildA := t.buildA, buildB := t.buildB,
        txQueue := s.txQueue ++ [TxFrame.fresh (.reply 3 4 (some b) .accepted 0)], beacons := t.beacons }

/-- BUILD_RELEASE on a build in OPEN or HELD with no ending RELEASE. With an empty plan list it settles at once:
ACCEPTED, PALLET DONE unverified with the built case count and weight, a swap due, SWAPPING, BUILD REPORT; a due scan is
dropped, a scan in flight gets its release mark, and the order stays. Entries are withdrawn as by a cancel, and a
PLACING entry with no PLACE in flight goes without a MISS; while one with its PLACE in flight remains, the ending is
RELEASE and the build keeps its state. ACCEPTED is offered before the MISS frames (R58 to R60, R86, R136, R144, R147).
The port is held. -/
def Obligations.BuildReleaseSendsThePalletAway : Prop :=
  ∀ (s : State) (f : Frame) (rest : List Frame) (b : BuildId), TakesBuildCommand s 5 f rest b → PortHeld s →
    ((s.build b).state = .opened ∨ (s.build b).state = .held) → (s.build b).ending ≠ .release →
    ((s.build b).plan = [] → s.txQueue.length ≤ 5 →
      ∃ t, exec .buildRelease s = .next t ∧
        t.build b = { s.build b with
          state := .swapping, ending := .noEnding, swapDue := true, scanDue := none, holdOrigin := .noOrigin,
          scanInFlight := (s.build b).scanInFlight.map (fun g => { g with release := true }) } ∧
        (∀ c, c ≠ b → t.build c = s.build c) ∧
        t.txQueue = s.txQueue ++ [TxFrame.fresh (.reply 3 5 (some b) .accepted 0),
          TxFrame.fresh (.palletDone b (((s.build b).order.map OrderHeader.ref).getD 0) (s.build b).built.cases
            (s.build b).built.weight false),
          TxFrame.fresh (.buildReport (reportOf b (t.build b)))] ∧
        t = { s with
          rxBuffer := rest, pairing := none, txQueue := t.txQueue, buildA := t.buildA, buildB := t.buildB,
          beacons := t.beacons }) ∧
    (∀ stays : PlanEntry → Prop,
      (∀ e, stays e ↔ e ∈ (s.build b).plan ∧ e.state = .placing ∧ ∃ g, s.inFlight = some g ∧ g.kind = .place ∧
        g.build = b ∧ g.tag = some e.tag ∧ g.discard = false) →
      ((s.build b).plan.map PlanEntry.tag).Nodup → s.txQueue.length + (s.build b).plan.length ≤ 5 →
      ∃ t, exec .buildRelease s = .next t ∧ (∀ e, e ∈ (t.build b).plan ↔ stays e) ∧
        (∀ e ∈ (s.build b).plan, e.state = .won →
          (∀ q ∈ t.pick, q.tag ≠ e.tag) ∧ TxFrame.fresh (.miss e.tag .cancelled) ∈ t.txQueue) ∧
        (∀ e ∈ (s.build b).plan, e.state = .contested → LosesEntry s t e.tag) ∧
        (∀ e ∈ (s.build b).plan, e.state = .placing → ¬ stays e → (∀ q ∈ t.pick, q.tag ≠ e.tag) ∧
          ∀ m, TxBody.miss e.tag m ∈ t.txQueue.map TxFrame.body → TxBody.miss e.tag m ∈ s.txQueue.map TxFrame.body) ∧
        (∃ held new, t.txQueue = held ++ TxFrame.fresh (.reply 3 5 (some b) .accepted 0) :: new ∧
          (held.map TxFrame.body).Sublist (s.txQueue.map TxFrame.body) ∧
          (∀ g ∈ s.txQueue, g.isClaim = false → g ∈ held) ∧
          (∀ e ∈ (s.build b).plan, e.state = .won → TxFrame.fresh (.miss e.tag .cancelled) ∈ new)) ∧
        (t.build b).scanDue = none ∧
        (t.build b).scanInFlight = (s.build b).scanInFlight.map (fun g => { g with release := true }) ∧
        ((∃ e, stays e) → (t.build b).state = (s.build b).state ∧ (t.build b).ending = .release ∧
          (t.build b).swapDue = (s.build b).swapDue) ∧
        ((∀ e, ¬ stays e) → (t.build b).state = .swapping ∧ (t.build b).ending = .noEnding ∧
          (t.build b).swapDue = true ∧
          TxFrame.fresh (.palletDone b (((s.build b).order.map OrderHeader.ref).getD 0) (s.build b).built.cases
            (s.build b).built.weight false) ∈ t.txQueue ∧
          TxFrame.fresh (.buildReport (reportOf b (t.build b))) ∈ t.txQueue) ∧
        (t.build b).built = (s.build b).built ∧ (t.build b).order = (s.build b).order ∧
        (∀ c, c ≠ b → t.build c = s.build c) ∧
        t = { s with
          rxBuffer := rest, pairing := none, txQueue := t.txQueue, positions := t.positions, track := t.track,
          throttled := t.throttled, sweep := t.sweep, pendingSweep := t.pendingSweep, buildA := t.buildA,
          buildB := t.buildB, pick := t.pick, counters := t.counters, beacons := t.beacons })

/-- A command frame for another station, and any in SILENT, is only removed, and a live prepare is kept (R164, R175). A
build command sent to all stations is ignored and ends a live prepare. One to this station is refused and changes no
state: with NOT READY in AWAIT CONFIG, then with DATA when it names neither build, then with NOT USED for an UNUSED
position, then with BUSY for a build in CLOSING or SWAPPING (R43, R152), and then by the command's own table: ORDER OPEN
(R44, R45), ORDER LINES with its checks in their order (R46), ORDER CANCEL (R55), BUILD RESUME (R54), BUILD RELEASE
(R58). The REPLY is offered; the next line index where no build is named is that of log entry 10. -/
def Obligations.RefusedBuildCommandsChangeNothing : Prop :=
  ∀ (s : State) (f : Frame) (rest : List Frame) (code : Nat) (cmd : Instr), s.rxBuffer = f :: rest →
    isCode 3 code f = true →
    ((code, cmd) ∈ [(1, Instr.orderOpen), (2, .orderLines), (3, .orderCancel), (4, .buildResume), (5, .buildRelease),
        (8, .clearPrepare), (9, .clear), (12, .statusQuery), (13, .faultQuery)] →
      s.station = .silent ∨ highNibble f ≠ 0 ∧ s.stationNumber ≠ some (highNibble f) → ∃ t, exec cmd s = .next t ∧
      t = { s with rxBuffer := rest, beacons := t.beacons }) ∧
    ((code, cmd) ∈ [(1, Instr.orderOpen), (2, .orderLines), (3, .orderCancel), (4, .buildResume), (5, .buildRelease)] →
    s.station ≠ .silent → s.txQueue.length < 8 →
    (highNibble f = 0 → ∃ t, exec cmd s = .next t ∧
      t = { s with rxBuffer := rest, pairing := none, beacons := t.beacons }) ∧
    (∀ r, highNibble f ≠ 0 → s.stationNumber = some (highNibble f) →
      (s.station = .awaitConfig ∧ r = .notReady ∨
        s.station ≠ .awaitConfig ∧ buildField f.payload = none ∧ r = .data ∨
        s.station ≠ .awaitConfig ∧ ∃ b x, buildField f.payload = some b ∧ x = s.build b ∧
          (x.state = .unused ∧ r = .notUsed ∨
            (x.state = .closing ∨ x.state = .swapping) ∧ r = .busy ∨
            code = 1 ∧ (x.state = .opened ∨ x.state = .held) ∧ r = .busy ∨
            code = 1 ∧ (x.state = .empty ∨ x.state = .loading) ∧
              ((byteAt f.payload 6).toNat = 0 ∨ 32 < (byteAt f.payload 6).toNat) ∧ r = .data ∨
            code = 2 ∧ x.state = .empty ∧ r = .noOrder ∨
            code = 2 ∧ (x.state = .opened ∨ x.state = .held) ∧ r = .busy ∨
            code = 2 ∧ x.state = .loading ∧ (byteAt f.payload 1).toNat ≠ x.nextLine ∧ r = .sequence ∨
            code = 2 ∧ x.state = .loading ∧ (byteAt f.payload 1).toNat = x.nextLine ∧
              ((byteAt f.payload 2).toNat = 0 ∨ 4 < (byteAt f.payload 2).toNat ∨
                (x.order.map OrderHeader.lineCount).getD 0 <
                  (byteAt f.payload 1).toNat + (byteAt f.payload 2).toNat ∨
                ∃ l ∈ orderLinesOf f.payload, l.article = 0 ∨ 4095 < l.article ∨ l.ordered = 0) ∧ r = .data ∨
            code = 3 ∧ (x.state = .empty ∨ x.state = .held ∧ x.order = none) ∧ r = .noOrder ∨
            code = 3 ∧ (x.state = .opened ∨ x.state = .held ∧ x.order ≠ none) ∧ x.ending ≠ .noEnding ∧ r = .busy ∨
            code = 4 ∧ (x.state = .empty ∨ x.state = .held ∧ x.order = none) ∧ r = .noOrder ∨
            code = 4 ∧ (x.state = .loading ∨ x.state = .opened) ∧ r = .busy ∨
            code = 4 ∧ x.state = .held ∧ x.order ≠ none ∧ (x.ending ≠ .noEnding ∨ x.scanDue = some .rescan ∨
              ∃ g, x.scanInFlight = some g ∧ g.kind = .rescan) ∧ r = .busy ∨
            code = 5 ∧ x.state = .empty ∧ r = .noOrder ∨
            code = 5 ∧ x.state = .loading ∧ r = .busy ∨
            code = 5 ∧ (x.state = .opened ∨ x.state = .held) ∧ x.ending = .release ∧ r = .busy)) →
      ∃ t, exec cmd s = .next t ∧
        t = { s with
          rxBuffer := rest, pairing := none, beacons := t.beacons,
          txQueue := s.txQueue ++ [TxFrame.fresh (.reply 3 (BitVec.ofNat 8 code) (buildField f.payload) r
            (if code = 2 then
              ((buildField f.payload).map (fun b => BitVec.ofNat 8 (s.build b).nextLine)).getD Config.indexOfNoBuild
            else 0))] }))

/-! ### Start-up and line clear (chapter 10) -/

/-- CLEAR_PREPARE after READY leaves a live prepare with the frame's number and answers ACCEPTED; CLEAR without a live
prepare of its number answers NO PREPARE and leaves none; in AWAIT CONFIG both answer NOT READY and leave none (R164).
-/
def Obligations.ClearPairingIsKept : Prop :=
  ∀ (s : State) (f : Frame) (rest : List Frame), s.txQueue.length < 8 →
    (TakesCommand s 8 f rest → ∃ t, exec .clearPrepare s = .next t ∧
      t = { s with
        rxBuffer := rest, beacons := t.beacons
        pairing := if s.station = .awaitConfig then none else some (wordAt f.payload 0)
        txQueue := s.txQueue ++ [TxFrame.fresh (.reply 3 8 none
          (if s.station = .awaitConfig then .notReady else .accepted) 0)] }) ∧
    (TakesCommand s 9 f rest → (s.station = .awaitConfig ∨ s.pairing ≠ some (wordAt f.payload 0)) →
      ∃ t, exec .clear s = .next t ∧
        t = { s with
          rxBuffer := rest, beacons := t.beacons, pairing := none
          txQueue := s.txQueue ++ [TxFrame.fresh (.reply 3 9 none
            (if s.station = .awaitConfig then .notReady else .noPrepare) 0)] })

/-- CLEAR with a live prepare of its number is the line clear: every list of work is emptied, builds are kept, held or
emptied by R61 with no order and planned equal to built, an operation in flight is marked, faults and counters are
cleared, a paused or stalled station is in RUN, and the belt count, the configuration and the frames behind the CLEAR
are kept. The REPLY and the BUILD REPORT frames of changed builds stand alone in the emptied queue (R165). The
next line index returns to 0 with the order (log entry 15). -/
def Obligations.LineClearResetsTheWork : Prop :=
  ∀ (s : State) (f : Frame) (rest : List Frame), TakesCommand s 9 f rest → s.station ≠ .awaitConfig →
    s.pairing = some (wordAt f.payload 0) → (∀ g ∈ s.txQueue, g.inTransmission = false) →
    ∃ t, exec .clear s = .next t ∧ (∀ n ∈ t.counters.toList, n = 0) ∧
      (∀ b, t.build b = { s.build b with
        state :=
          if (s.build b).state = .unused then .unused
          else if (s.build b).state = .swapping ∨
              ((s.build b).state ≠ .empty ∧ ∃ i : Fin 24, (s.build b).built.height[i] ≠ 0) then .held
          else .empty
        order := none, lines := [], nextLine := 0, ending := .noEnding, planned := (s.build b).built, plan := [],
        scanDue := none, holdOrigin := .noOrigin, swapDue := false }) ∧
      t.txQueue = TxFrame.fresh (.reply 3 9 none .accepted 0) ::
        ((if s.buildA.state = t.buildA.state then [] else [TxFrame.fresh (.buildReport (reportOf .A t.buildA))]) ++
          (if s.buildB.state = t.buildB.state then [] else [TxFrame.fresh (.buildReport (reportOf .B t.buildB))])) ∧
      t = { s with
        txQueue := t.txQueue, rxBuffer := rest, positions := [], eyeLatch := none, track := [], throttled := false,
        throttleSeen := false, sweep := none, pendingSweep := false, buildA := t.buildA, buildB := t.buildB, pick := [],
        inFlight := s.inFlight.map (fun g => { g with discard := true }), streak := 0, cycles := 0,
        pauseTimer := none, station := .run, pairing := none,
        fault := ⟨false, false, .attn, none, none, none, 0, 0⟩, counters := t.counters, beacons := t.beacons }

/-- ROLL_CALL in AWAIT CONFIG is answered with a HELLO that shows the setup taken as it stands; in every other state it
is ignored (R156). -/
def Obligations.RollCallIsAnsweredWhileWaiting : Prop :=
  ∀ (s : State) (f : Frame) (rest : List Frame), s.rxBuffer = f :: rest → isStartUp 0 f = true →
    s.txQueue.length < 8 →
    ∃ t, exec .rollCall s = .next t ∧
      t = { s with
        rxBuffer := rest, beacons := t.beacons
        txQueue :=
          if s.station = .awaitConfig then
            s.txQueue ++ [TxFrame.fresh (.hello s.lineSetup.isSome s.setup1.isSome s.setup2.isSome)]
          else s.txQueue }

/-- The three setup frames: in AWAIT CONFIG one that passes its checks is taken with its clamps and answered ACCEPTED,
one that fails is answered DATA and changes nothing; after READY all are answered LOCKED and change nothing (R157 to
R160). The checks and clamps of LINE SETUP are those of R158, those of STATION SETUP 1 of R159, with the cross check of
either against the values held of the other; STATION SETUP 2 has clamps alone (R160). The taking clause is for a frame
that leaves another one still missing. In SILENT each is only removed, and so is a STATION SETUP frame that is not
addressed to this station (R157, R175). -/
def Obligations.SetupFramesAreTakenOrRefused : Prop :=
  (∀ (s : State) (f : Frame) (rest : List Frame) (code : Nat) (cmd : Instr),
    (code, cmd) ∈ [(1, Instr.lineSetup), (2, .stationSetup1), (3, .stationSetup2)] → s.rxBuffer = f :: rest →
    isStartUp code f = true →
    s.station = .silent ∨ code ≠ 1 ∧ s.stationNumber ≠ some (detailOf f % 16) →
    ∃ t, exec cmd s = .next t ∧ t = { s with rxBuffer := rest, beacons := t.beacons }) ∧
  ∀ (s : State) (f : Frame) (rest : List Frame) (p : List Byte) (code : Nat) (cmd : Instr) (ok : Prop)
    (v : LineSetup) (w : Setup1) (z : Setup2) (l : Option LineSetup) (a : Option Setup1) (c : Option Setup2),
    p = f.payload →
    v = ⟨wordAt p 0, wordAt p 2, min (byteAt p 4).toNat 4, (wordAt p 5).toNat, (wordAt p 7).toNat,
      min (wordAt p 9).toNat 600, min (wordAt p 11).toNat 400, max 1 (min (byteAt p 13).toNat 4)⟩ →
    w = ⟨wordAt p 0, wordAt p 2, wordAt p 4, wordAt p 6, (byteAt p 8).toNat, (byteAt p 9).toNat, byteAt p 10 != 0,
      max 1 (byteAt p 11).toNat, max 1 (byteAt p 12).toNat, max 1 (byteAt p 13).toNat⟩ →
    z = ⟨max 1 (min (byteAt p 0).toNat 7), max 1 (min (byteAt p 1).toNat 7), max 1 (byteAt p 2).toNat,
      byteAt p 3 != 0, min (byteAt p 4).toNat 8, min (byteAt p 5).toNat (min (byteAt p 4).toNat 8 - 1),
      (wordAt p 6).toNat, min (wordAt p 8).toNat 400, max 1 (min (byteAt p 10).toNat 50)⟩ →
    (cmd = .lineSetup ∧ code = 1 ∧ l = some v ∧ a = s.setup1 ∧ c = s.setup2 ∧
        (ok ↔ 1 ≤ v.closeDist.toNat ∧ v.closeDist.toNat ≤ 32767 ∧ v.guardDist.toNat < v.closeDist.toNat ∧
          ∀ h, s.setup1 = some h → v.closeDist.toNat + h.eyeTol.toNat < h.eyeDist.toNat) ∨
      cmd = .stationSetup1 ∧ code = 2 ∧ l = s.lineSetup ∧ a = some w ∧ c = s.setup2 ∧
        (ok ↔ w.eyeDist.toNat + w.eyeTol.toNat ≤ 32767 ∧ w.pickOpen.toNat < w.pickClose.toNat ∧
          w.pickClose.toNat ≤ 32767 ∧ w.creditsA ≤ 7 ∧ w.creditsB ≤ 7 ∧ w.creditsA + w.creditsB ≤ 8 ∧
          1 ≤ w.creditsA + w.creditsB ∧
          ∀ h, s.lineSetup = some h → h.closeDist.toNat + w.eyeTol.toNat < w.eyeDist.toNat) ∨
      cmd = .stationSetup2 ∧ code = 3 ∧ l = s.lineSetup ∧ a = s.setup1 ∧ c = some z ∧ ok) →
    s.rxBuffer = f :: rest → isStartUp code f = true → (code = 1 ∨ s.stationNumber = some (detailOf f % 16)) →
    s.txQueue.length < 8 →
    (s.station = .awaitConfig → ok → (l = none ∨ a = none ∨ c = none) → ∃ t, exec cmd s = .next t ∧
      t = { s with
        rxBuffer := rest, lineSetup := l, setup1 := a, setup2 := c, beacons := t.beacons
        txQueue := s.txQueue ++ [TxFrame.fresh (.reply 5 (BitVec.ofNat 8 code) none .accepted 0)] }) ∧
    (s.station = .awaitConfig → ¬ ok → ∃ t, exec cmd s = .next t ∧
      t = { s with
        rxBuffer := rest, beacons := t.beacons
        txQueue := s.txQueue ++ [TxFrame.fresh (.reply 5 (BitVec.ofNat 8 code) none .data 0)] }) ∧
    (s.station = .run ∨ s.station = .paused ∨ s.station = .stalled → ∃ t, exec cmd s = .next t ∧
      t = { s with
        rxBuffer := rest, beacons := t.beacons
        txQueue := s.txQueue ++ [TxFrame.fresh (.reply 5 (BitVec.ofNat 8 code) none .locked 0)] })

/-- READY: when the third setup frame is accepted the station offers the REPLY and READY, enters RUN with F and P 0, and
each position with credits enters EMPTY with a BUILD REPORT, A before B (R161, R41). Any of the three setup frames may
come last; the values and the checks are those that R158 to R160 give its frame. -/
def Obligations.ThirdSetupFrameReachesReady : Prop :=
  ∀ (s : State) (f : Frame) (rest : List Frame) (code : Nat) (cmd : Instr) (l : LineSetup) (a : Setup1) (c : Setup2),
    (cmd = .lineSetup ∧ code = 1 ∧ l = ⟨wordAt f.payload 0, wordAt f.payload 2, min (byteAt f.payload 4).toNat 4,
          (wordAt f.payload 5).toNat, (wordAt f.payload 7).toNat, min (wordAt f.payload 9).toNat 600,
          min (wordAt f.payload 11).toNat 400, max 1 (min (byteAt f.payload 13).toNat 4)⟩ ∧
        1 ≤ l.closeDist.toNat ∧ l.closeDist.toNat ≤ 32767 ∧ l.guardDist.toNat < l.closeDist.toNat ∧
        (∀ h, s.setup1 = some h → l.closeDist.toNat + h.eyeTol.toNat < h.eyeDist.toNat) ∧
        s.setup1 = some a ∧ s.setup2 = some c ∨
      cmd = .stationSetup1 ∧ code = 2 ∧ a = ⟨wordAt f.payload 0, wordAt f.payload 2, wordAt f.payload 4,
          wordAt f.payload 6, (byteAt f.payload 8).toNat, (byteAt f.payload 9).toNat, byteAt f.payload 10 != 0,
          max 1 (byteAt f.payload 11).toNat, max 1 (byteAt f.payload 12).toNat, max 1 (byteAt f.payload 13).toNat⟩ ∧
        a.eyeDist.toNat + a.eyeTol.toNat ≤ 32767 ∧ a.pickOpen.toNat < a.pickClose.toNat ∧
        a.pickClose.toNat ≤ 32767 ∧ a.creditsA ≤ 7 ∧ a.creditsB ≤ 7 ∧ a.creditsA + a.creditsB ≤ 8 ∧
        1 ≤ a.creditsA + a.creditsB ∧
        (∀ h, s.lineSetup = some h → h.closeDist.toNat + a.eyeTol.toNat < a.eyeDist.toNat) ∧
        s.lineSetup = some l ∧ s.setup2 = some c ∨
      cmd = .stationSetup2 ∧ code = 3 ∧ c = ⟨max 1 (min (byteAt f.payload 0).toNat 7),
          max 1 (min (byteAt f.payload 1).toNat 7), max 1 (byteAt f.payload 2).toNat, byteAt f.payload 3 != 0,
          min (byteAt f.payload 4).toNat 8, min (byteAt f.payload 5).toNat (min (byteAt f.payload 4).toNat 8 - 1),
          (wordAt f.payload 6).toNat, min (wordAt f.payload 8).toNat 400,
          max 1 (min (byteAt f.payload 10).toNat 50)⟩ ∧ s.lineSetup = some l ∧ s.setup1 = some a) →
    s.rxBuffer = f :: rest → isStartUp code f = true → (code = 1 ∨ s.stationNumber = some (detailOf f % 16)) →
    s.station = .awaitConfig → s.txQueue.length ≤ 4 → s.buildA = Build.atPowerOn → s.buildB = Build.atPowerOn →
    ∃ t, exec cmd s = .next t ∧ t.station = .run ∧ t.streak = 0 ∧ t.cycles = 0 ∧
      t.lineSetup = some l ∧ t.setup1 = some a ∧ t.setup2 = some c ∧
      t.buildA = { Build.atPowerOn with state := if a.creditsA = 0 then .unused else .empty } ∧
      t.buildB = { Build.atPowerOn with state := if a.creditsB = 0 then .unused else .empty } ∧
      t.txQueue = s.txQueue ++ [TxFrame.fresh (.reply 5 (BitVec.ofNat 8 code) none .accepted 0),
        TxFrame.fresh (.ready a.creditsA a.creditsB)] ++
        (if a.creditsA = 0 then [] else [TxFrame.fresh (.buildReport (reportOf .A t.buildA))]) ++
        (if a.creditsB = 0 then [] else [TxFrame.fresh (.buildReport (reportOf .B t.buildB))]) ∧
      t = { s with
        rxBuffer := rest, lineSetup := t.lineSetup, setup1 := t.setup1, setup2 := t.setup2, station := .run,
        streak := 0, cycles := 0, txQueue := t.txQueue, buildA := t.buildA, buildB := t.buildB, beacons := t.beacons }

/-! ### Queries and beacons (chapter 11) -/

/-- STATUS_QUERY places STATUS 1 and STATUS 2 as the station stood, FAULT_QUERY its FAULT REPORT; the clear option
clears what was reported, and only when every frame of the answer found room; each frame that finds none is counted TX
DROP, and in SILENT both queries are ignored (R168, R170, R171). STATUS 1 carries the station as the events before the
query left it (R170). -/
def Obligations.QueriesReportAndClear : Prop :=
  (∀ s : State, status1Of s = ⟨s.station, s.lineSetup.isSome, s.setup1.isSome, s.setup2.isSome, s.throttled,
    s.throttleSeen, s.robotReady, s.streak, s.cycles, s.inFlight.map (fun g => (g.kind, g.build)), s.track.length,
    s.pick.length, s.buildA.plan.length, s.buildB.plan.length, s.buildA.state, s.buildB.state,
    ⟨s.buildA.scanDue.isSome, s.buildA.scanInFlight.isSome⟩, ⟨s.buildB.scanDue.isSome, s.buildB.scanInFlight.isSome⟩,
    ⟨s.buildA.swapDue, s.buildA.swapInFlight⟩, ⟨s.buildB.swapDue, s.buildB.swapInFlight⟩, s.fault⟩) ∧
  ∀ (s : State) (f : Frame) (rest : List Frame),
    (TakesCommand s 12 f rest → s.txQueue.length ≤ 6 → ∃ t, exec .statusQuery s = .next t ∧
      t.txQueue = s.txQueue ++ [TxFrame.fresh (.status1 (status1Of s)), TxFrame.fresh (.status2 s.counters)] ∧
      t = { s with
        rxBuffer := rest, pairing := none, txQueue := t.txQueue, beacons := t.beacons
        counters := if byteAt f.payload 0 = 0 then s.counters else Counters.zero
        throttleSeen := if byteAt f.payload 0 = 0 then s.throttleSeen else false }) ∧
    (TakesCommand s 12 f rest → s.txQueue.length = 7 → ∃ t, exec .statusQuery s = .next t ∧
      t.txQueue = s.txQueue ++ [TxFrame.fresh (.status1 (status1Of s))] ∧
      t = { s with
        rxBuffer := rest, pairing := none, txQueue := t.txQueue, beacons := t.beacons
        counters := { s.counters with txDrop := min (s.counters.txDrop + 1) 255 } }) ∧
    (TakesCommand s 12 f rest → 8 ≤ s.txQueue.length → ∃ t, exec .statusQuery s = .next t ∧
      t = { s with
        rxBuffer := rest, pairing := none, beacons := t.beacons
        counters := { s.counters with txDrop := min (min (s.counters.txDrop + 1) 255 + 1) 255 } }) ∧
    (s.rxBuffer = f :: rest → s.station = .silent → ∀ cmd code,
      (cmd = .statusQuery ∧ code = 12 ∨ cmd = .faultQuery ∧ code = 13) → isCode 3 code f = true →
      ∃ t, exec cmd s = .next t ∧ t = { s with rxBuffer := rest, beacons := t.beacons }) ∧
    (TakesCommand s 13 f rest → s.txQueue.length < 8 → ∃ t, exec .faultQuery s = .next t ∧
      t = { s with
        rxBuffer := rest, pairing := none, beacons := t.beacons
        txQueue := s.txQueue ++ [TxFrame.fresh (.faultReport s.fault)]
        fault := if byteAt f.payload 0 = 0 then s.fault else ⟨false, false, .attn, none, none, none, 0, 0⟩ }) ∧
    (TakesCommand s 13 f rest → 8 ≤ s.txQueue.length → ∃ t, exec .faultQuery s = .next t ∧
      t = { s with
        rxBuffer := rest, pairing := none, beacons := t.beacons
        counters := { s.counters with txDrop := min (s.counters.txDrop + 1) 255 } })

/-- RUN_BEACON_BLINK in RUN with no build in OPEN: the time base comes to the next change of the blink, at most half a
second on, and the RUN line changes its level, but for the on half that the wrap of the time base lengthens (R172; how
far the time base moves is the model's choice, log entry 5). -/
def Obligations.RunBeaconBlinks : Prop :=
  ∀ s : State, s.station = .run → s.buildA.state ≠ .opened → s.buildB.state ≠ .opened →
    s.timeBase.toNat < 4294967000 →
    ∃ t, exec .runBeaconBlink s = .next t ∧ t.timeBase.toNat ≤ s.timeBase.toNat + 500 ∧
      s.timeBase.toNat < t.timeBase.toNat ∧
      (t.beacons.run = true ↔ ¬ s.timeBase.toNat % 1000 < 500) ∧
      t = { s with timeBase := t.timeBase, beacons := t.beacons }

/-! ### The robot port (chapters 6 to 9 and 12) -/

/-- ROBOT_STATE sets the robot-ready flag to the state it carries; only a change from not ready to ready runs the
arbiter (R106). -/
def Obligations.RobotStateSetsTheFlag : Prop :=
  ∀ (s : State) (seq : Byte) (p : List Byte) (check : Byte), p.length ≤ 48 → recordPasses 0x84 seq p check = true →
    ∃ t, exec (.robotState seq p check) s = .next t ∧ (t.robotReady = true ↔ byteAt p 0 ≠ 0) ∧
      (byteAt p 0 = 0 ∨ s.robotReady = true → t = { s with
        robotReady := t.robotReady, receiver := .idle, beacons := t.beacons }) ∧
      (byteAt p 0 ≠ 0 → s.robotReady = false → ∃ u, u = runArbiter { s with robotReady := true, receiver := .idle } ∧
        t = { u with beacons := t.beacons })

/-- A record that fails its tests, a record with a length byte above 48, a record broken off by a gap, a completion that
does not match the operation in flight, and a PLACE DONE with an outcome byte outside 1 to 4 are each counted once in
LINK ERROR + STALE and change nothing else but the receiver (R105, R113, R177). A completion or an expiry of an
operation with the discard mark, and of a scan with the release mark, only ends the operation: no result is taken,
nothing is counted and no fault is recorded (R122, R144); a build still in OPEN gets the sweep that follows the end of
its scan (log entry 27). The robot is not ready there. How far a gap or an expiry moves the time base is the model's
choice (log entry 5). A record passes when its check byte is the CRC-8 of kind, sequence, length and payload and its
payload has the length of its kind (R105, 12 section 12.5). -/
def Obligations.LinkErrorsAndStaleRecordsAreCounted : Prop :=
  (∀ (kind seq check : Byte) (p : List Byte), recordPasses kind seq p check = true ↔
    (kind.toNat, p.length) ∈ [(0x81, 3), (0x82, 48), (0x83, 0), (0x84, 1)] ∧
    check = (kind :: seq :: BitVec.ofNat 8 p.length :: p).foldl (fun c b =>
      Nat.repeat (fun x : Byte => if x.msb = true then (x <<< 1) ^^^ 7 else x <<< 1) 8 (c ^^^ b)) 0) ∧
  (∀ s : State, gapPassed s = true ↔ ∃ got last, s.receiver = .taking got last ∧ 5 < (s.timeBase - last).toNat) ∧
  ∀ (s : State) (kind seq check length : Byte) (p got : List Byte) (c : Counters),
    c = { s.counters with linkError := min (s.counters.linkError + 1) 255 } →
    (p.length ≤ 48 → recordPasses kind seq p check = false → ∃ t, exec (.recordDiscarded kind seq p check) s = .next t ∧
      t = { s with receiver := .idle, counters := c, beacons := t.beacons }) ∧
    (48 < length.toNat → ∃ t, exec (.recordAbandoned kind seq length) s = .next t ∧
      t = { s with receiver := .idle, counters := c, beacons := t.beacons }) ∧
    (partialRecord (s.receiver.held ++ got) = true → ∃ t, exec (.interByteTimeout got) s = .next t ∧
      t = { s with
        receiver := .idle, counters := c, beacons := t.beacons
        timeBase := if got = [] ∧ gapPassed s = true then s.timeBase else s.timeBase + 6 }) ∧
    (∀ cmd k,
      (cmd = .placeDone seq p check ∧ k = .place ∨ cmd = .scanData seq p check ∧ k = .scan ∨
        cmd = .swapDone seq p check ∧ k = .swap) →
      (∀ g, s.inFlight = some g → g.kind ≠ k ∨ g.seq ≠ seq) → ∃ t, exec cmd s = .next t ∧
        t = { s with receiver := .idle, counters := c, beacons := t.beacons }) ∧
    ((byteAt p 0).toNat = 0 ∨ 4 < (byteAt p 0).toNat → ∃ t, exec (.placeDone seq p check) s = .next t ∧
      t = { s with receiver := .idle, counters := c, beacons := t.beacons }) ∧
    (∀ g, s.inFlight = some g → s.robotReady = false →
      (g.kind = .place → g.discard = true →
        (∃ t, exec .placeExpiry s = .next t ∧
          t = { s with inFlight := none, timeBase := t.timeBase, beacons := t.beacons }) ∧
        (g.seq = seq → recordPasses 0x81 seq p check = true → 1 ≤ (byteAt p 0).toNat → (byteAt p 0).toNat ≤ 4 →
          ∃ t, exec (.placeDone seq p check) s = .next t ∧
            t = { s with inFlight := none, receiver := .idle, beacons := t.beacons })) ∧
      (g.kind = .swap → g.discard = true → ∀ cmd,
        (cmd = .swapTimeout ∨ cmd = .swapDone seq p check ∧ g.seq = seq ∧ recordPasses 0x83 seq p check = true) →
        ∃ t, exec cmd s = .next t ∧ t.build g.build = { s.build g.build with swapInFlight := false } ∧
          (∀ b, b ≠ g.build → t.build b = s.build b) ∧ (cmd ≠ .swapTimeout → t.timeBase = s.timeBase) ∧
          t = { s with
            inFlight := none, receiver := if cmd = .swapTimeout then s.receiver else .idle, timeBase := t.timeBase,
            buildA := t.buildA, buildB := t.buildB, beacons := t.beacons }) ∧
      (g.kind = .scan → (g.discard = true ∨ ∃ fl, (s.build g.build).scanInFlight = some fl ∧ fl.release = true) →
        ∀ cmd,
        (cmd = .scanTimeout ∨ cmd = .scanData seq p check ∧ g.seq = seq ∧ recordPasses 0x82 seq p check = true) →
        ∃ t, exec cmd s = .next t ∧ t.build g.build = { s.build g.build with scanInFlight := none } ∧
          (∀ b, b ≠ g.build → t.build b = s.build b) ∧ (cmd ≠ .scanTimeout → t.timeBase = s.timeBase) ∧
          ((s.build g.build).state ≠ .opened → t.sweep = s.sweep ∧ t.pendingSweep = s.pendingSweep) ∧
          ((s.build g.build).state = .opened → t.sweep.isSome = true) ∧
          t = { s with
            inFlight := none, receiver := if cmd = .scanTimeout then s.receiver else .idle, timeBase := t.timeBase,
            buildA := t.buildA, buildB := t.buildB, sweep := t.sweep, pendingSweep := t.pendingSweep,
            beacons := t.beacons }))

/-- PLACE_DONE PLACED for the PLACE in flight on a build in OPEN or HELD, with any ending: the case is applied to the
built surface with its measured weight, or its announced weight when none was measured; its entry and its pick entry are
gone, its line's placed count has risen, the build is recomputed (R87), F and P are 0, the port is free and a sweep
follows (R93, R113, R115, R125). A measured weight that deviates by more than WEIGHT_TOL percent is counted (R94); a
margin held at 0 records OVERLOAD and makes an OPEN build HELD, with its CONTESTED and WON entries withdrawn (R95). With
no ending a HELD build otherwise stays HELD and an OPEN one is CLOSING once no line has anything open or planned (R52,
R53). An ending settles when the plan list is empty: a cancel to EMPTY or to CLOSING with the final scan due (log entry
26 for a rescan that is due), a release to SWAPPING with PALLET DONE; otherwise it waits (R57, R60). A change of state
is reported (R42), both frames where the transmit queue has room. On a build then in OPEN, with no ending RELEASE, a
step scan falls due when the greatest built height has crossed into a new band of VERIFY_STEP (R133, R135). The robot is
not ready, so that the arbiter grants nothing more. -/
def Obligations.PlacedCaseStandsOnThePallet : Prop :=
  ∀ (s : State) (seq : Byte) (p : List Byte) (check : Byte) (g : InFlight) (tag : Tag) (e : PlanEntry) (w : Nat)
    (x : Build) (clamps : Bool), recordPasses 0x81 seq p check = true → s.inFlight = some g → g.kind = .place →
    g.seq = seq → g.discard = false → g.tag = some tag → findEntry g.build tag s = some e → e.state = .placing →
    (byteAt p 0).toNat = 1 → w = (if (wordAt p 1).toNat = 0 then e.weight else (wordAt p 1).toNat) →
    x = s.build g.build →
    (clamps = true ↔ ∃ i : Fin 24, InFootprint e.foot i ∧
      x.built.margin[i] < (max 1 (min w 4095) + e.foot.fx * e.foot.fy - 1) / (e.foot.fx * e.foot.fy)) →
    x.state = .opened ∨ x.state = .held → s.robotReady = false →
    ∃ t y, exec (.placeDone seq p check) s = .next t ∧ y = t.build g.build ∧ t.inFlight = none ∧
      y.built = x.built.apply e.foot e.h w e.rating ∧
      (∀ z ∈ y.plan, z.tag ≠ tag) ∧ (∀ q ∈ t.pick, q.tag ≠ tag) ∧ (∀ c, c ≠ g.build → t.build c = s.build c) ∧
      t.sweep.isSome = true ∧
      ((x.ending = .cancel → ∃ i : Fin 24, y.built.height[i] ≠ 0) → y.lines.map DemandLine.placed =
        (x.lines.modify e.line (fun l => { l with placed := l.placed + 1 })).map DemandLine.placed) ∧
      t.counters.weightDeviation = (if (wordAt p 1).toNat ≠ 0 ∧ s.own2.weightTol * e.weight <
          (max (wordAt p 1).toNat e.weight - min (wordAt p 1).toNat e.weight) * 100
        then min (s.counters.weightDeviation + 1) 255 else s.counters.weightDeviation) ∧
      (clamps = true →
        (s.fault.valid = false →
          t.fault = ⟨true, false, .attn, some .overload, some g.build, some tag, s.belt, s.timeBase⟩) ∧
        (x.state = .opened → ∀ z ∈ y.plan, z.state = .placing)) ∧
      (clamps = false → t.fault = s.fault) ∧
      (x.ending = .noEnding → clamps = false → (x.plan.map PlanEntry.tag).Nodup →
        Recomputed s.line { x with built := y.built, plan := x.plan.filter (fun z => z.tag != tag) } y) ∧
      (x.ending = .noEnding → y.ending = .noEnding ∧ y.state =
        (if x.state = .held ∨ clamps = true then BuildState.held
        else if ∀ l ∈ x.lines.modify e.line (fun l => { l with planned := l.planned - 1, placed := l.placed + 1 }),
            l.ordered - l.planned - l.placed = 0 ∧ l.planned = 0 then .closing
        else .opened)) ∧
      (x.ending ≠ .noEnding → y.plan ≠ [] → y.ending = x.ending ∧ y.order = x.order ∧ y.swapDue = x.swapDue ∧
        y.state = if clamps = true then .held else x.state) ∧
      (x.ending = .cancel → y.plan = [] → y.ending = .noEnding ∧ y.holdOrigin = .noOrigin ∧
        ((∀ i : Fin 24, y.built.height[i] = 0) → y.state = .empty ∧ y.order = none ∧ y.lines = []) ∧
        ((∃ i : Fin 24, y.built.height[i] ≠ 0) → y.state = .closing ∧ y.order = x.order)) ∧
      (x.ending = .release → y.plan = [] → y.ending = .noEnding ∧ y.holdOrigin = .noOrigin ∧ y.state = .swapping ∧
        y.swapDue = true ∧ y.order = x.order ∧ (s.station ≠ .silent → s.txQueue.length + x.plan.length ≤ 6 →
          TxFrame.fresh (.palletDone g.build ((x.order.map OrderHeader.ref).getD 0) y.built.cases y.built.weight
            false) ∈ t.txQueue)) ∧
      (y.state ≠ x.state → s.station ≠ .silent → s.txQueue.length + x.plan.length ≤ 6 →
        TxFrame.fresh (.buildReport (reportOf g.build y)) ∈ t.txQueue) ∧
      (y.state = .closing → y.scanDue = if x.scanDue = some .rescan then some .rescan else some .final) ∧
      (y.state = .held → x.state = .held → y.scanDue = x.scanDue) ∧
      (y.state = .held → x.state = .opened → y.scanDue =
        if x.scanDue = some .step ∨ x.scanDue = some .final then none else x.scanDue) ∧
      (∀ before after : Nat, y.state = .opened →
        (∀ i : Fin 24, x.built.height[i] ≤ before) → (∃ i : Fin 24, x.built.height[i] = before) →
        (∀ i : Fin 24, y.built.height[i] ≤ after) → (∃ i : Fin 24, y.built.height[i] = after) →
        y.scanDue = if x.scanDue = none ∧ x.ending ≠ .release ∧ 0 < s.own2.verifyStep ∧
            before / s.own2.verifyStep < after / s.own2.verifyStep
          then some .step else x.scanDue) ∧
      t = { s with
        inFlight := none, receiver := .idle, streak := 0, cycles := 0, txQueue := t.txQueue,
        positions := t.positions, track := t.track, throttled := t.throttled, sweep := t.sweep,
        pendingSweep := t.pendingSweep, buildA := t.buildA, buildB := t.buildB, pick := t.pick, fault := t.fault,
        counters := t.counters, beacons := t.beacons }

/-- PLACE_DONE MISSED or REFUSED takes the entry and its pick entry away with MISS NOT PICKED and leaves the built
surface; DROPPED leaves the entry in PLACING, uncertain with not placed alone, and makes an uncertain scan due. Each
adds one to F, and below the quick limit the station stays as it is (R113, R116 to R118, R124, R134). The robot is not
ready. -/
def Obligations.FailedPlacementsStepTheStreak : Prop :=
  ∀ (s : State) (seq : Byte) (p : List Byte) (check : Byte) (g : InFlight) (tag : Tag) (e : PlanEntry),
    recordPasses 0x81 seq p check = true → s.inFlight = some g → g.kind = .place → g.seq = seq → g.discard = false →
    g.tag = some tag → findEntry g.build tag s = some e → e.state = .placing →
    (s.build g.build).ending = .noEnding → s.robotReady = false → s.station = .run →
    s.streak + 1 < (if s.cycles = 0 then s.own2.q1 else s.own2.q2) → s.streak < 15 → s.txQueue.length < 8 →
    ((byteAt p 0).toNat = 2 ∨ (byteAt p 0).toNat = 4 → ∃ t, exec (.placeDone seq p check) s = .next t ∧
      (∀ x ∈ (t.build g.build).plan, x.tag ≠ tag) ∧ (∀ q ∈ t.pick, q.tag ≠ tag) ∧
      TxFrame.fresh (.miss tag .notPicked) ∈ t.txQueue ∧ (t.build g.build).built = (s.build g.build).built ∧
      (((s.build g.build).plan.map PlanEntry.tag).Nodup → Recomputed s.line
        { s.build g.build with plan := (s.build g.build).plan.filter (fun z => z.tag != tag) } (t.build g.build)) ∧
      (∀ c, c ≠ g.build → t.build c = s.build c) ∧
      t = { s with
        inFlight := none, receiver := .idle, streak := s.streak + 1, txQueue := t.txQueue,
        positions := t.positions, track := t.track, throttled := t.throttled, sweep := t.sweep,
        pendingSweep := t.pendingSweep, buildA := t.buildA, buildB := t.buildB, pick := t.pick,
        counters := t.counters, beacons := t.beacons }) ∧
    ((byteAt p 0).toNat = 3 → (s.build g.build).scanDue = none → ∃ t, exec (.placeDone seq p check) s = .next t ∧
      t.build g.build = { s.build g.build with
        scanDue := some .uncertain
        plan := (s.build g.build).plan.map
          (fun x => if x.tag = tag then { x with uncertain := some .notPlacedOnly } else x) } ∧
      (∀ c, c ≠ g.build → t.build c = s.build c) ∧
      t = { s with
        inFlight := none, streak := s.streak + 1, receiver := .idle, buildA := t.buildA, buildB := t.buildB,
        beacons := t.beacons })

/-- Reaching the quick limit in force adds one to P; with the latch enabled the fifth stalls the station, every other
pauses it with the pause timer running from now, and the fault is recorded with the build and tag of the PLACE; F keeps
its value (R126 to R128, R130). The limit is q1 while P is 0 and q2 afterwards. PLACE_DONE MISSED, DROPPED and REFUSED
and PLACE_EXPIRY take their outcome and then this step (R116 to R119, R124): an expiry records PLACE TIMEOUT first, so
that PAUSE only sets Overflow and STALL overwrites it (R127, R167). The claims that are not in transmission are gone
(R39). The robot is not ready. At what value the time base stands after an expiry is the model's choice (log entry 5).
-/
def Obligations.QuickLimitPausesOrStalls : Prop :=
  (∀ (s : State) (b : BuildId) (tag : Option Tag), s.station = .run → s.streak < 15 →
    s.streak + 1 = (if s.cycles = 0 then s.own2.q1 else s.own2.q2) → s.fault.valid = false →
    ∃ t, t = streakFailure b tag s ∧
      t = { s with
        station := t.station, streak := s.streak + 1, cycles := min (s.cycles + 1) 255, pauseTimer := t.pauseTimer,
        txQueue := t.txQueue, positions := t.positions, track := t.track, throttled := t.throttled,
        sweep := t.sweep, pendingSweep := t.pendingSweep, buildA := t.buildA, buildB := t.buildB, pick := t.pick,
        fault := t.fault, counters := t.counters } ∧
      (s.own2.stallLatch = true ∧ t.cycles = 5 → t.station = .stalled ∧ t.pauseTimer = s.pauseTimer ∧
        t.fault = ⟨true, false, .stop, some .stall, some b, tag, s.belt, s.timeBase⟩) ∧
      (¬ (s.own2.stallLatch = true ∧ t.cycles = 5) → t.station = .paused ∧ t.pauseTimer = some s.timeBase ∧
        t.fault = ⟨true, false, .attn, some .pause, some b, tag, s.belt, s.timeBase⟩) ∧
      (∀ f ∈ t.txQueue, f.isClaim = true → f.inTransmission = true)) ∧
  ∀ (s : State) (cmd : Instr) (seq : Byte) (p : List Byte) (check : Byte) (g : InFlight) (tag : Tag) (e : PlanEntry)
    (x : Build), s.inFlight = some g → g.kind = .place → g.discard = false → g.tag = some tag →
    findEntry g.build tag s = some e → e.state = .placing → x = s.build g.build → (x.plan.map PlanEntry.tag).Nodup →
    s.robotReady = false → s.station = .run → s.streak < 15 →
    s.streak + 1 = (if s.cycles = 0 then s.own2.q1 else s.own2.q2) → s.fault.valid = false →
    (cmd = .placeExpiry ∨ cmd = .placeDone seq p check ∧ recordPasses 0x81 seq p check = true ∧ g.seq = seq ∧
      ((byteAt p 0).toNat = 2 ∨ (byteAt p 0).toNat = 3 ∨ (byteAt p 0).toNat = 4)) →
    ∃ t y, exec cmd s = .next t ∧ y = t.build g.build ∧ (∀ b, (t.build b).built = (s.build b).built) ∧
      t = { s with
        inFlight := none, receiver := if cmd = .placeExpiry then s.receiver else .idle, station := t.station,
        streak := s.streak + 1, cycles := min (s.cycles + 1) 255, pauseTimer := t.pauseTimer, timeBase := t.timeBase,
        txQueue := t.txQueue, positions := t.positions, track := t.track, throttled := t.throttled, sweep := t.sweep,
        pendingSweep := t.pendingSweep, buildA := t.buildA, buildB := t.buildB, pick := t.pick, fault := t.fault,
        counters := t.counters, beacons := t.beacons } ∧
      (cmd ≠ .placeExpiry → t.timeBase = s.timeBase) ∧
      (cmd = .placeExpiry → g.limitMs < 2 ^ 32 → g.limitMs ≤ (t.timeBase - g.startedAt).toNat) ∧
      (s.own2.stallLatch = true ∧ t.cycles = 5 → t.station = .stalled ∧ t.pauseTimer = s.pauseTimer ∧
        t.fault = ⟨true, false, .stop, some .stall, some g.build, some tag, s.belt, t.timeBase⟩) ∧
      (¬ (s.own2.stallLatch = true ∧ t.cycles = 5) → t.station = .paused ∧ t.pauseTimer = some t.timeBase ∧
        t.fault = if cmd = .placeExpiry
          then ⟨true, true, .attn, some .placeTimeout, some g.build, some tag, s.belt, t.timeBase⟩
          else ⟨true, false, .attn, some .pause, some g.build, some tag, s.belt, s.timeBase⟩) ∧
      (∀ f ∈ t.txQueue, f.isClaim = true → f.inTransmission = true) ∧
      (cmd ≠ .placeExpiry → (byteAt p 0).toNat ≠ 3 → (∀ z ∈ y.plan, z.tag ≠ tag) ∧ (∀ q ∈ t.pick, q.tag ≠ tag) ∧
        (s.txQueue.length < 8 → TxFrame.fresh (.miss tag .notPicked) ∈ t.txQueue)) ∧
      (cmd = .placeExpiry ∨ (byteAt p 0).toNat = 3 →
        (x.ending = .release → ∀ z ∈ y.plan, z.tag ≠ tag) ∧
        (x.ending ≠ .release → (x.scanDue = none → y.scanDue = some .uncertain) ∧
          { e with uncertain := some (if cmd = .placeExpiry then .placedOrNot else .notPlacedOnly) } ∈ y.plan))

/-- SCAN_DATA for the scan in flight of a build, heights within VERIFY_TOL of the expected ones on all tiles being a
match (R138). A plain scan that matches the built surface completes the pallet after a final scan in CLOSING, lets an
OPEN build go on after a step scan, and leaves HELD after a rescan with no ending; one that mismatches records the
fault, holds an OPEN or CLOSING build and keeps a HELD one, with the map of the mismatching tiles (R139, R141, R142,
R146, R53). An uncertain scan that matches its entry placed, where that is open, takes it as PLACED with its announced
weight, with no deviation count and no step of the streak; one that matches it not placed withdraws it with MISS NOT
PICKED; either leaves the map clear; one that matches neither leaves the entry and records the fault with its tag (R96,
R140, R142). A rescan so resolved without OVERLOAD leaves HELD too. On leaving HELD a build held from CLOSING or with a
complete order enters CLOSING with its final scan due, any other OPEN with a sweep (R141). A rescan that is due stays
due instead of the final one (log entry 26). The robot is not ready. The uncertain entry is the PLACING one with open
hypotheses (R85). -/
def Obligations.ScanDataIsCompared : Prop :=
  (∀ (x : Build) (e : PlanEntry), uncertainEntry x = some e ↔ ∃ older newer, x.plan = older ++ e :: newer ∧
    e.state = .placing ∧ e.uncertain ≠ none ∧ ∀ q ∈ older, ¬ (q.state = .placing ∧ q.uncertain ≠ none)) ∧
  ∀ (s : State) (seq : Byte) (p : List Byte) (check : Byte) (g : InFlight) (fl : ScanFlight) (x : Build)
    (matchesAll : (Fin 24 → Nat) → Prop) (built : Fin 24 → Nat) (leavesHeld : State → Prop),
    recordPasses 0x82 seq p check = true → s.inFlight = some g → g.kind = .scan → g.seq = seq → g.discard = false →
    x = s.build g.build → x.scanInFlight = some fl → fl.release = false → s.robotReady = false →
    (∀ h, matchesAll h ↔ ∀ i : Fin 24, (wordAt p (2 * i.val)).toNat ≤ h i + s.line.verifyTol ∧
      h i ≤ (wordAt p (2 * i.val)).toNat + s.line.verifyTol) →
    (∀ i, built i = x.built.height[i]) →
    (∀ t, leavesHeld t ↔ (t.build g.build).holdOrigin = .noOrigin ∧
      if x.holdOrigin = .closing ∨ ∀ l ∈ (t.build g.build).lines, l.ordered - l.planned - l.placed = 0 ∧ l.planned = 0
      then (t.build g.build).state = .closing ∧
        (t.build g.build).scanDue = (if x.scanDue = some .rescan then some .rescan else some .final)
      else (t.build g.build).state = .opened ∧ (t.build g.build).scanDue = x.scanDue ∧ t.sweep.isSome = true) →
    ∃ t, exec (.scanData seq p check) s = .next t ∧ (t.build g.build).scanInFlight = none ∧
      (∀ c, c ≠ g.build → t.build c = s.build c) ∧
      t = { s with
        inFlight := none, receiver := .idle, txQueue := t.txQueue, positions := t.positions, track := t.track,
        throttled := t.throttled, sweep := t.sweep, pendingSweep := t.pendingSweep, buildA := t.buildA,
        buildB := t.buildB, pick := t.pick, fault := t.fault, counters := t.counters, beacons := t.beacons } ∧
      (fl.uncertain = false →
        (matchesAll built →
          (fl.kind = .final → x.state = .closing → s.station ≠ .silent → s.txQueue.length ≤ 6 →
            (t.build g.build).state = .swapping ∧ (t.build g.build).swapDue = true ∧
            t.txQueue = s.txQueue ++ [TxFrame.fresh (.palletDone g.build ((x.order.map OrderHeader.ref).getD 0)
              x.built.cases x.built.weight true), TxFrame.fresh (.buildReport (reportOf g.build (t.build g.build)))]) ∧
          (fl.kind = .step → x.state = .opened →
            (t.build g.build).state = .opened ∧ t.sweep.isSome = true ∧ t.txQueue = s.txQueue ∧ t.fault = s.fault) ∧
          (fl.kind = .rescan → x.state = .held → x.ending = .noEnding → leavesHeld t ∧ t.fault = s.fault ∧
            (t.build g.build).built = x.built ∧ (t.build g.build).plan = x.plan ∧
            (s.station ≠ .silent → s.txQueue.length < 8 →
              t.txQueue = s.txQueue ++ [TxFrame.fresh (.buildReport (reportOf g.build (t.build g.build)))]))) ∧
        (¬ matchesAll built → x.state = .opened ∨ x.state = .closing ∨ x.state = .held →
          (t.build g.build).state = .held ∧
          (t.build g.build).holdOrigin = (if x.state = .held then x.holdOrigin
            else if x.state = .closing then .closing else .noOrigin) ∧
          (x.state ≠ .held → ∀ e ∈ (t.build g.build).plan, e.state = .placing) ∧
          (x.state = .held → (t.build g.build).plan = x.plan ∧ (s.station ≠ .silent → s.txQueue.length < 8 →
            t.txQueue = s.txQueue ++ [TxFrame.fresh (.buildReport (reportOf g.build (t.build g.build)))])) ∧
          (t.build g.build).built = x.built ∧
          (∀ i : Fin 24, (t.build g.build).mismatch[i] = true ↔
            ¬ ((wordAt p (2 * i.val)).toNat ≤ x.built.height[i] + s.line.verifyTol ∧
              x.built.height[i] ≤ (wordAt p (2 * i.val)).toNat + s.line.verifyTol)) ∧
          (s.fault.valid = false →
            t.fault = ⟨true, false, .attn, some .verifyMismatch, some g.build, none, s.belt, s.timeBase⟩))) ∧
      (fl.uncertain = true → ∀ (e : PlanEntry) (placed expected : Fin 24 → Nat) (clamps : Bool),
        uncertainEntry x = some e → (clamps = true ↔ ∃ i : Fin 24, InFootprint e.foot i ∧ x.built.margin[i] <
          (max 1 (min e.weight 4095) + e.foot.fx * e.foot.fy - 1) / (e.foot.fx * e.foot.fy)) →
        (∀ i, placed i = if InFootprint e.foot i then baseOver x.built.height e.foot + e.h else x.built.height[i]) →
        expected = (if e.uncertain = some .placedOrNot then placed else built) →
        (e.uncertain = some .placedOrNot → matchesAll placed →
          (t.build g.build).built = x.built.apply e.foot e.h e.weight e.rating ∧
          (∀ y ∈ (t.build g.build).plan, y.tag ≠ e.tag) ∧ (∀ q ∈ t.pick, q.tag ≠ e.tag) ∧ t.sweep.isSome = true ∧
          (∀ i : Fin 24, (t.build g.build).mismatch[i] = false) ∧
          t.counters.weightDeviation = s.counters.weightDeviation ∧
          (x.ending = .noEnding → (t.build g.build).lines.map DemandLine.placed =
            (x.lines.modify e.line (fun l => { l with placed := l.placed + 1 })).map DemandLine.placed) ∧
          (clamps = true → (x.state = .opened → x.ending = .noEnding →
              (t.build g.build).state = .held) ∧
            (s.fault.valid = false → t.fault =
              ⟨true, false, .attn, some .overload, some g.build, some e.tag, s.belt, s.timeBase⟩)) ∧
          (clamps = false → t.fault = s.fault ∧
            (x.state = .opened → x.ending = .noEnding → (t.build g.build).state =
              if ∀ l ∈ x.lines.modify e.line (fun l => { l with planned := l.planned - 1, placed := l.placed + 1 }),
                l.ordered - l.planned - l.placed = 0 ∧ l.planned = 0
              then .closing else .opened) ∧
            (fl.kind = .rescan → x.state = .held → x.ending = .noEnding → leavesHeld t))) ∧
        ((e.uncertain = some .placedOrNot → ¬ matchesAll placed) → matchesAll built →
          (t.build g.build).built = x.built ∧ (∀ y ∈ (t.build g.build).plan, y.tag ≠ e.tag) ∧
          (∀ q ∈ t.pick, q.tag ≠ e.tag) ∧ t.sweep.isSome = true ∧ t.fault = s.fault ∧
          (∀ i : Fin 24, (t.build g.build).mismatch[i] = false) ∧
          (s.station ≠ .silent → s.txQueue.length < 8 → TxFrame.fresh (.miss e.tag .notPicked) ∈ t.txQueue) ∧
          (x.state = .opened → x.ending = .noEnding → (t.build g.build).state = .opened) ∧
          (fl.kind = .rescan → x.state = .held → x.ending = .noEnding → leavesHeld t)) ∧
        ((e.uncertain = some .placedOrNot → ¬ matchesAll placed) → ¬ matchesAll built →
          x.state = .opened ∨ x.state = .held → (t.build g.build).state = .held ∧
          ((x.plan.map PlanEntry.tag).Nodup → e ∈ (t.build g.build).plan) ∧ (t.build g.build).built = x.built ∧
          (∀ i : Fin 24, (t.build g.build).mismatch[i] = true ↔
            ¬ ((wordAt p (2 * i.val)).toNat ≤ expected i + s.line.verifyTol ∧
              expected i ≤ (wordAt p (2 * i.val)).toNat + s.line.verifyTol)) ∧
          (s.fault.valid = false →
            t.fault = ⟨true, false, .attn, some .verifyMismatch, some g.build, some e.tag, s.belt, s.timeBase⟩)))

/-- SWAP_DONE for the SWAP in flight returns the build to EMPTY with both surfaces deck, no order, the map clear, and a
BUILD REPORT (R149). The next line index returns to 0 with the order (log entry 15). The robot is not ready. -/
def Obligations.SwapDoneEmptiesTheBuild : Prop :=
  ∀ (s : State) (seq : Byte) (p : List Byte) (check : Byte) (g : InFlight), recordPasses 0x83 seq p check = true →
    s.inFlight = some g → g.kind = .swap → g.seq = seq → g.discard = false → s.robotReady = false →
    s.station ≠ .silent → s.txQueue.length < 8 →
    ∃ t, exec (.swapDone seq p check) s = .next t ∧
      t.build g.build = { s.build g.build with
        state := .empty, order := none, lines := [], nextLine := 0, ending := .noEnding, built := Surface.deck,
        planned := Surface.deck, mismatch := Vector.replicate 24 false, holdOrigin := .noOrigin,
        swapInFlight := false } ∧
      (∀ c, c ≠ g.build → t.build c = s.build c) ∧
      t = { s with
        inFlight := none, receiver := .idle, buildA := t.buildA, buildB := t.buildB, beacons := t.beacons
        txQueue := s.txQueue ++ [TxFrame.fresh (.buildReport (reportOf g.build (t.build g.build)))] }

/-- PLACE_EXPIRY: the entry stays in PLACING and becomes uncertain with both hypotheses open, an uncertain scan becomes
due, PLACE TIMEOUT is recorded with build and tag at the expiry, F gains one and the port is free (R114, R119, R134).
Below the quick limit, the robot not ready. At what value the time base then stands is the model's choice (log entry
5): at least the limit after the start. -/
def Obligations.PlaceExpiryLeavesTheCaseUncertain : Prop :=
  ∀ (s : State) (g : InFlight) (tag : Tag) (e : PlanEntry), s.inFlight = some g → g.kind = .place →
    g.discard = false → g.tag = some tag → findEntry g.build tag s = some e → e.state = .placing →
    (s.build g.build).ending = .noEnding → (s.build g.build).scanDue = none → s.robotReady = false → s.station = .run →
    s.streak + 1 < (if s.cycles = 0 then s.own2.q1 else s.own2.q2) → s.streak < 15 →
    g.limitMs < 2 ^ 32 → s.fault.valid = false →
    ∃ t, exec .placeExpiry s = .next t ∧ g.limitMs ≤ (t.timeBase - g.startedAt).toNat ∧
      t.fault = ⟨true, false, .attn, some .placeTimeout, some g.build, some tag, s.belt, t.timeBase⟩ ∧
      t.build g.build = { s.build g.build with
        scanDue := some .uncertain
        plan := (s.build g.build).plan.map
          (fun x => if x.tag = tag then { x with uncertain := some .placedOrNot } else x) } ∧
      (∀ c, c ≠ g.build → t.build c = s.build c) ∧
      t = { s with
        inFlight := none, streak := s.streak + 1, fault := t.fault, timeBase := t.timeBase, buildA := t.buildA,
        buildB := t.buildB, beacons := t.beacons }

/-- SCAN_TIMEOUT and SWAP_TIMEOUT: an OPEN or CLOSING build whose scan expires, and a build whose swap expires, enter
HELD with their fault recorded at the expiry and the port free; a build held from CLOSING keeps that origin, a swap
expiry discards the order, and the built surface is kept (R143, R150, R53). A build in HELD whose scan expires stays in
HELD with the scan ended and the fault recorded, and no report is offered; in EMPTY, LOADING and SWAPPING it is the same
(R143). The robot is not ready. -/
def Obligations.ScanAndSwapExpiriesHoldTheBuild : Prop :=
  ∀ (s : State) (g : InFlight), s.inFlight = some g → g.discard = false → s.robotReady = false →
    s.fault.valid = false →
    (g.kind = .scan → ∀ fl, (s.build g.build).scanInFlight = some fl → fl.release = false →
      ((s.build g.build).state = .opened ∨ (s.build g.build).state = .closing) → ∃ t, exec .scanTimeout s = .next t ∧
        (t.build g.build).state = .held ∧ (t.build g.build).scanInFlight = none ∧
        ((t.build g.build).holdOrigin = .closing ↔ (s.build g.build).state = .closing) ∧
        (∀ e ∈ (t.build g.build).plan, e.state = .placing) ∧ (t.build g.build).built = (s.build g.build).built ∧
        t.fault = ⟨true, false, .attn, some .scanTimeout, some g.build,
          (uncertainEntry (s.build g.build)).map PlanEntry.tag, s.belt, t.timeBase⟩ ∧
        (∀ c, c ≠ g.build → t.build c = s.build c) ∧
        t = { s with
          inFlight := none, timeBase := t.timeBase, txQueue := t.txQueue, positions := t.positions, track := t.track,
          throttled := t.throttled, sweep := t.sweep, pendingSweep := t.pendingSweep, buildA := t.buildA,
          buildB := t.buildB, pick := t.pick, fault := t.fault, counters := t.counters, beacons := t.beacons }) ∧
    (g.kind = .scan → ∀ fl, (s.build g.build).scanInFlight = some fl → fl.release = false →
      ((s.build g.build).state = .held ∨ (s.build g.build).state = .empty ∨ (s.build g.build).state = .loading ∨
        (s.build g.build).state = .swapping) → ∃ t, exec .scanTimeout s = .next t ∧
        t.build g.build = { s.build g.build with scanInFlight := none } ∧ (∀ c, c ≠ g.build → t.build c = s.build c) ∧
        t.fault = ⟨true, false, .attn, some .scanTimeout, some g.build,
          (uncertainEntry (s.build g.build)).map PlanEntry.tag, s.belt, t.timeBase⟩ ∧
        t = { s with
          inFlight := none, timeBase := t.timeBase, buildA := t.buildA, buildB := t.buildB, fault := t.fault,
          beacons := t.beacons }) ∧
    (g.kind = .swap → ∃ t, exec .swapTimeout s = .next t ∧ (t.build g.build).state = .held ∧
      (t.build g.build).order = none ∧ (t.build g.build).lines = [] ∧ (t.build g.build).ending = .noEnding ∧
      (t.build g.build).swapInFlight = false ∧ (t.build g.build).holdOrigin = .noOrigin ∧
      (t.build g.build).built = (s.build g.build).built ∧ (t.build g.build).mismatch = (s.build g.build).mismatch ∧
      t.fault = ⟨true, false, .attn, some .swapTimeout, some g.build, none, s.belt, t.timeBase⟩ ∧
      (∀ c, c ≠ g.build → t.build c = s.build c) ∧
      t = { s with
        inFlight := none, timeBase := t.timeBase, txQueue := t.txQueue, buildA := t.buildA, buildB := t.buildB,
        fault := t.fault, counters := t.counters, beacons := t.beacons })

/-- PAUSE_TIMER_EXPIRY in PAUSED: the station is in RUN, F is 0, P is kept, the timer is stopped and a sweep follows
(R129). The port is held. At what value the time base then stands is the model's choice (log entry 5): at least the
pause length after the start. -/
def Obligations.PauseEndsAtItsTimer : Prop :=
  ∀ (s : State) (start : Millis), s.station = .paused → s.pauseTimer = some start → PortHeld s →
    s.own2.pauseLength ≤ 255 →
    ∃ t, exec .pauseTimerExpiry s = .next t ∧ s.own2.pauseLength * 100 ≤ (t.timeBase - start).toNat ∧
      t.sweep.isSome = true ∧
      t = { s with
        station := .run, streak := 0, pauseTimer := none, timeBase := t.timeBase, sweep := t.sweep,
        pendingSweep := t.pendingSweep, beacons := t.beacons }

/-- One run of the arbiter with the port free and the robot ready: a due scan, build A before build B, then a due swap,
build A before build B, then, in RUN alone, a PLACE for the first entry that meets the conditions of R97 and R110. The
request goes out with the next number, and the in-flight record is filled with it and the present time. A scan goes in
flight uncertain when the build holds a PLACING entry with the uncertain flag, else plain, and clears the mismatch map;
a swap goes in flight; a PLACE moves its entries to PLACING and withdraws the pick close point (R97, R108 to R112, R137,
R148). A request goes out as start byte, kind, sequence, length, payload and CRC-8, and a PLACE carries the fields of 12
section 12.5. -/
def Obligations.ArbiterGrantsInOrder : Prop :=
  (∀ (kind seq : Byte) (p : List Byte), recordBytes kind seq p =
    [0x7E, kind, seq, BitVec.ofNat 8 p.length] ++ p ++
      [(kind :: seq :: BitVec.ofNat 8 p.length :: p).foldl (fun c b =>
        Nat.repeat (fun x : Byte => if x.msb = true then (x <<< 1) ^^^ 7 else x <<< 1) 8 (c ^^^ b)) 0]) ∧
  (∀ (b : BuildId) (e : PlanEntry) (capture : Count), placePayload b e capture =
    [BitVec.ofNat 8 (e.tag.toNat / 256), BitVec.ofNat 8 e.tag.toNat, if b = .A then 0 else 1,
      BitVec.ofNat 8 e.foot.col, BitVec.ofNat 8 e.foot.row, BitVec.ofNat 8 (e.turned.toNat + 128 * e.baseFlag.toNat),
      BitVec.ofNat 8 (e.base / 256), BitVec.ofNat 8 e.base, BitVec.ofNat 8 e.h, BitVec.ofNat 8 (e.weight / 256),
      BitVec.ofNat 8 e.weight, BitVec.ofNat 8 (capture.toNat / 256), BitVec.ofNat 8 capture.toNat]) ∧
  ∀ s : State, s.inFlight = none → s.robotReady = true →
    (s.station = .run ∨ s.station = .paused ∨ s.station = .stalled) →
    ∃ t, t = runArbiter s ∧
      t = { s with
        positions := t.positions, buildA := t.buildA, buildB := t.buildB, pick := t.pick, inFlight := t.inFlight,
        seqCounter := t.seqCounter, utx := t.utx } ∧
      (∀ b k, (s.build b).scanDue = some k → (b = .A ∨ s.buildA.scanDue = none) →
        t = { s with
          buildA := t.buildA, buildB := t.buildB, seqCounter := s.seqCounter + 1
          inFlight := some ⟨.scan, s.seqCounter + 1, b, none, s.timeBase, s.own1.scanLimit * 100, false⟩
          utx := some (recordBytes 0x02 (s.seqCounter + 1) [if b = .A then 0 else 1]) } ∧
        (∃ u : Bool, (u = true ↔ ∃ e ∈ (s.build b).plan, e.state = .placing ∧ e.uncertain ≠ none) ∧
          t.build b = { s.build b with
            scanDue := none, scanInFlight := some ⟨k, u, false⟩, mismatch := Vector.replicate 24 false }) ∧
        (∀ c, c ≠ b → t.build c = s.build c)) ∧
      (s.buildA.scanDue = none → s.buildB.scanDue = none →
        (∀ b, (s.build b).swapDue = true → (b = .A ∨ s.buildA.swapDue = false) →
          t = { s with
            buildA := t.buildA, buildB := t.buildB, seqCounter := s.seqCounter + 1
            inFlight := some ⟨.swap, s.seqCounter + 1, b, none, s.timeBase, s.own1.swapLimit * 1000, false⟩
            utx := some (recordBytes 0x03 (s.seqCounter + 1) [if b = .A then 0 else 1]) } ∧
          t.build b = { s.build b with swapDue := false, swapInFlight := true } ∧
          (∀ c, c ≠ b → t.build c = s.build c)) ∧
        (s.buildA.swapDue = false → s.buildB.swapDue = false →
          (s.station ≠ .run → t = s) ∧
          (s.station = .run → (∀ p ∈ s.pick, ∀ m e, ¬ MayBePlaced s p m e) → t = s) ∧
          (s.station = .run → ∀ older p newer m e, s.pick = older ++ p :: newer →
            (∀ q ∈ older, ∀ m e, ¬ MayBePlaced s q m e) → MayBePlaced s p m e →
            t = { s with
              buildA := t.buildA, buildB := t.buildB, seqCounter := s.seqCounter + 1
              inFlight := some ⟨.place, s.seqCounter + 1, p.build, some p.tag, s.timeBase,
                (if s.own1.placeBase100 then 100 else 10) * s.own1.placeCount, false⟩
              utx := some (recordBytes 0x01 (s.seqCounter + 1) (placePayload p.build e m.capture))
              pick := s.pick.map (fun q => if q.tag = p.tag then { q with phase := .placing m } else q)
              positions := s.positions.filter (fun q => !(q.kind == .pickClose && q.tag == p.tag)) } ∧
            t.build p.build = { s.build p.build with
              plan := (s.build p.build).plan.map
                (fun x => if x.tag = p.tag then { x with state := .placing } else x) } ∧
            (∀ c, c ≠ p.build → t.build c = s.build c))))

/-! ### The tile grid and the plan lists (chapters 4 and 5) -/

/-- The placement search finds a feasible candidate with its own score, which no candidate of the enumeration beats, and
which every earlier feasible candidate exceeds; it finds none only when none is feasible. With the ranges of R45, R69
and R7 a score lies between 640 and 40512 (R66, R76, R77). The candidates are the footprints on the deck in both
orientations, the second only when w and d differ, in tile-index order within each (R65, R66). With B the greatest
height of its tiles, a candidate is feasible exactly when the seven checks pass: support, BASE, reserve, height, load,
weight and centre of gravity (R67 to R75), and its score is 64(B + h) + 16U + 2048p, U the sum of the voids (R68, R76).
-/
def Obligations.SearchFindsTheFirstBest : Prop :=
  ∀ (v : LineSetup) (o : OrderHeader) (active : Bool) (s : Surface) (c : CaseLoad) (w d : Nat),
    (∀ r, search v o active s c w d = some r →
      (∃ i : Nat, (candidates w d)[i]? = some (r.turned, r.foot) ∧
        feasible v o active s c r.foot = true ∧ r.base = baseOver s.height r.foot ∧
        r.score = scoreOf o s c.h r.foot ∧
        (∀ (j : Nat) (x : Bool × Footprint), (candidates w d)[j]? = some x → feasible v o active s c x.2 = true →
          r.score ≤ scoreOf o s c.h x.2 ∧ (j < i → r.score < scoreOf o s c.h x.2))) ∧
      (o.heightLimit ≤ 400 → o.priority ≤ 7 → v.supportTol ≤ 4 → w ≤ 3 → d ≤ 3 → 10 ≤ c.h →
        640 ≤ r.score ∧ r.score ≤ 40512)) ∧
    (search v o active s c w d = none → ∀ x ∈ candidates w d, feasible v o active s c x.2 = false) ∧
    (1 ≤ w → 1 ≤ d →
      (∀ (turned : Bool) (f : Footprint), (turned, f) ∈ candidates w d ↔ f.col + f.fx ≤ 6 ∧ f.row + f.fy ≤ 4 ∧
        (turned = false ∧ f.fx = w ∧ f.fy = d ∨ turned = true ∧ w ≠ d ∧ f.fx = d ∧ f.fy = w)) ∧
      (candidates w d).Pairwise (fun x y => x.1 = false ∧ y.1 = true ∨
        x.1 = y.1 ∧ x.2.row * 6 + x.2.col < y.2.row * 6 + y.2.col)) ∧
    (∀ (f : Footprint) (base weight : Nat) (mx my : Int),
      (∀ i : Fin 24, InFootprint f i → s.height[i] ≤ base) → (∃ i : Fin 24, InFootprint f i ∧ s.height[i] = base) →
      weight = s.weight + c.weight → mx = s.mx + c.weight * (200 * f.col + 100 * f.fx - 600) →
      my = s.my + c.weight * (200 * f.row + 100 * f.fy - 400) →
      baseOver s.height f = base ∧ (feasible v o active s c f = true ↔
        (∀ i : Fin 24, InFootprint f i → base ≤ s.height[i] + v.supportTol) ∧ (c.base = true → base = 0) ∧
        ¬ (active = true ∧ c.base = false ∧ base = 0 ∧ ∃ i : Fin 24, InFootprint f i ∧
          if o.reserveRight = true then 6 - o.reserve ≤ i.val % 6 else i.val % 6 < o.reserve) ∧
        base + c.h ≤ o.heightLimit ∧
        (∀ i : Fin 24, InFootprint f i → (c.weight + f.fx * f.fy - 1) / (f.fx * f.fy) ≤ s.margin[i]) ∧
        weight ≤ v.wmax * 10 ∧
        (weight < v.cogFloor * 10 ∨ -(v.limX * weight : Int) ≤ mx ∧ mx ≤ v.limX * weight ∧
          -(v.limY * weight : Int) ≤ my ∧ my ≤ v.limY * weight)) ∧
      scoreOf o s c.h f = 64 * (base + c.h) +
        16 * ((List.finRange 24).map (fun i => if InFootprint f i then base - s.height[i] else 0)).sum +
        2048 * o.priority)

/-- Applying a placement: every tile of the footprint stands at the base plus the height, its margin is the lesser of
the margin less the share and the case's capacity, 0 where the share exceeds the margin; every other tile keeps its
values; the totals gain the weight and the moments of the footprint's centre (R65, R78 to R81). -/
def Obligations.ApplyStacksOneCase : Prop :=
  ∀ (s : Surface) (f : Footprint) (h weight rating : Nat) (i : Fin 24),
    (InFootprint f i →
      (s.apply f h weight rating).height[i] = baseOver s.height f + h ∧
      s.height[i] ≤ baseOver s.height f ∧
      (s.apply f h weight rating).margin[i] =
        min (s.margin[i] - (max 1 (min weight 4095) + f.fx * f.fy - 1) / (f.fx * f.fy)) (rating * 20 / (f.fx * f.fy))) ∧
    (¬ InFootprint f i →
      (s.apply f h weight rating).height[i] = s.height[i] ∧ (s.apply f h weight rating).margin[i] = s.margin[i]) ∧
    (s.apply f h weight rating).weight = s.weight + max 1 (min weight 4095) ∧
    (s.apply f h weight rating).mx = s.mx + max 1 (min weight 4095) * (200 * f.col + 100 * f.fx - 600) ∧
    (s.apply f h weight rating).my = s.my + max 1 (min weight 4095) * (200 * f.row + 100 * f.fy - 400) ∧
    (s.apply f h weight rating).cases = s.cases + 1

/-- A recomputation copies the built surface and walks the plan list: PLACING entries remain, and a CONTESTED or WON
entry remains exactly when, at its turn, the base over its footprint is the recorded one and support, height, load,
weight and centre of gravity pass; the planned surface is the built one with the entries that remain applied in plan
order (R88 to R90, R92). Each other entry is withdrawn: its line's planned count falls, a WON one leaves the pick order
list with MISS WITHDRAWN, offered where the transmit queue has room, the record of a CONTESTED one moves as R30 states,
and a sweep follows (R91). The planned surface then carries the built one, the planned case count exceeds the built one
by the entries that remain, and the built surface and the other build are as before (R92). EYE_WINDOW_END and
PICK_CLOSE_POINT of a WON case, SEND_DEADLINE of a QUEUED one whose claim is not in transmission, and CLAIM that beats a
QUEUED or SENT one take their entry out and recompute its build (R87). -/
def Obligations.RecomputationRebuildsThePlan : Prop :=
  (∀ (s : State) (b : BuildId), ((s.build b).plan.map PlanEntry.tag).Nodup →
    ∃ t gone, t = recompute b s ∧ Recomputed s.line (s.build b) (t.build b) ∧ PlannedCarriesBuilt (t.build b) ∧
      (t.build b).planned.cases = (s.build b).built.cases + (t.build b).plan.length ∧
      gone = (s.build b).plan.filter (fun e => decide (e ∉ (t.build b).plan)) ∧
      t.build b = { s.build b with
        planned := (t.build b).planned, plan := (t.build b).plan
        lines := gone.foldl
          (fun ls e => ls.modify e.line (fun l => { l with planned := l.planned - 1 })) (s.build b).lines } ∧
      (∀ e ∈ gone, e.state = .won → (∀ q ∈ t.pick, q.tag ≠ e.tag) ∧
        (s.station ≠ .silent → s.txQueue.length + (s.build b).plan.length ≤ 8 →
          TxFrame.fresh (.miss e.tag .withdrawn) ∈ t.txQueue)) ∧
      (∀ e ∈ gone, e.state = .contested → LosesEntry s t e.tag) ∧
      (gone ≠ [] → t.sweep.isSome = true) ∧
      (gone = [] → t = { s with buildA := t.buildA, buildB := t.buildB }) ∧
      (∀ c, c ≠ b → t.build c = s.build c) ∧
      t = { s with
        txQueue := t.txQueue, positions := t.positions, track := t.track, throttled := t.throttled, sweep := t.sweep,
        pendingSweep := t.pendingSweep, buildA := t.buildA, buildB := t.buildB, pick := t.pick,
        counters := t.counters }) ∧
  ∀ (s : State) (cmd : Instr) (b : BuildId) (tag : Tag) (e : PlanEntry),
    ((s.build b).plan.map PlanEntry.tag).Nodup → findEntry b tag s = some e →
    ((cmd = .eyeWindowEnd tag ∧ EventRaised s .eyeWindowEnd tag ∨
        cmd = .pickClosePoint tag ∧ EventRaised s .pickClose tag) ∧ e.state = .won ∧
        (∃ p, findPick tag s = some p ∧ p.build = b) ∨
      cmd = .sendDeadline tag ∧ EventRaised s .sendDeadline tag ∧ claimInTransmission tag s = false ∧
        (∃ r o, findRecord tag s = some r ∧ r.state = .queued ∧ r.bid = some o ∧ o.build = b) ∨
      cmd = .claim ∧ ∃ f rest c r o, s.rxBuffer = f :: rest ∧ kindOf f = 1 ∧ wordAt f.payload 0 = tag ∧
        c = ⟨(wordAt f.payload 2).toNat, f.ident.toNat % 16⟩ ∧ findRecord tag s = some r ∧
        (r.state = .queued ∨ r.state = .sent) ∧ r.bid = some o ∧ o.build = b ∧
        (∀ d, r.best = some d → BetterClaim c d.score d.station) ∧ BetterClaim c o.score s.number) →
    ∃ t, exec cmd s = .next t ∧
      Recomputed s.line { s.build b with plan := (s.build b).plan.filter (fun z => z.tag != tag) } (t.build b)
end

