-- ==== Sys2Proof/Laws/State.lean ====
section
/-!
SUPPORT. The small lemmas of the state operations: for each operation, one lemma for each field it leaves unchanged and
one for each field it writes, so that no later proof unfolds a record update.
-/
namespace Sys2Proof.Machine

variable (s : State)


/-! ### showBeacons -/

@[simp] theorem showBeacons_txQueue : (showBeacons s).txQueue = s.txQueue := rfl
@[simp] theorem showBeacons_rxBuffer : (showBeacons s).rxBuffer = s.rxBuffer := rfl
@[simp] theorem showBeacons_ctx : (showBeacons s).ctx = s.ctx := rfl
@[simp] theorem showBeacons_ownSent : (showBeacons s).ownSent = s.ownSent := rfl
@[simp] theorem showBeacons_belt : (showBeacons s).belt = s.belt := rfl
@[simp] theorem showBeacons_positions : (showBeacons s).positions = s.positions := rfl
@[simp] theorem showBeacons_eyeLatch : (showBeacons s).eyeLatch = s.eyeLatch := rfl
@[simp] theorem showBeacons_track : (showBeacons s).track = s.track := rfl
@[simp] theorem showBeacons_throttled : (showBeacons s).throttled = s.throttled := rfl
@[simp] theorem showBeacons_throttleSeen : (showBeacons s).throttleSeen = s.throttleSeen := rfl
@[simp] theorem showBeacons_sweep : (showBeacons s).sweep = s.sweep := rfl
@[simp] theorem showBeacons_pendingSweep : (showBeacons s).pendingSweep = s.pendingSweep := rfl
@[simp] theorem showBeacons_buildA : (showBeacons s).buildA = s.buildA := rfl
@[simp] theorem showBeacons_buildB : (showBeacons s).buildB = s.buildB := rfl
@[simp] theorem showBeacons_pick : (showBeacons s).pick = s.pick := rfl
@[simp] theorem showBeacons_inFlight : (showBeacons s).inFlight = s.inFlight := rfl
@[simp] theorem showBeacons_seqCounter : (showBeacons s).seqCounter = s.seqCounter := rfl
@[simp] theorem showBeacons_robotReady : (showBeacons s).robotReady = s.robotReady := rfl
@[simp] theorem showBeacons_receiver : (showBeacons s).receiver = s.receiver := rfl
@[simp] theorem showBeacons_urx : (showBeacons s).urx = s.urx := rfl
@[simp] theorem showBeacons_utx : (showBeacons s).utx = s.utx := rfl
@[simp] theorem showBeacons_streak : (showBeacons s).streak = s.streak := rfl
@[simp] theorem showBeacons_cycles : (showBeacons s).cycles = s.cycles := rfl
@[simp] theorem showBeacons_pauseTimer : (showBeacons s).pauseTimer = s.pauseTimer := rfl
@[simp] theorem showBeacons_station : (showBeacons s).station = s.station := rfl
@[simp] theorem showBeacons_stationNumber : (showBeacons s).stationNumber = s.stationNumber := rfl
@[simp] theorem showBeacons_lineSetup : (showBeacons s).lineSetup = s.lineSetup := rfl
@[simp] theorem showBeacons_setup1 : (showBeacons s).setup1 = s.setup1 := rfl
@[simp] theorem showBeacons_setup2 : (showBeacons s).setup2 = s.setup2 := rfl
@[simp] theorem showBeacons_pairing : (showBeacons s).pairing = s.pairing := rfl
@[simp] theorem showBeacons_fault : (showBeacons s).fault = s.fault := rfl
@[simp] theorem showBeacons_counters : (showBeacons s).counters = s.counters := rfl
@[simp] theorem showBeacons_timeBase : (showBeacons s).timeBase = s.timeBase := rfl
@[simp] theorem showBeacons_pending : (showBeacons s).pending = s.pending := rfl

/-! ### register -/

@[simp] theorem register_txQueue (k : PosKind) (tag : Tag) (v : Count) :
    (register k tag v s).txQueue = s.txQueue := rfl
@[simp] theorem register_rxBuffer (k : PosKind) (tag : Tag) (v : Count) :
    (register k tag v s).rxBuffer = s.rxBuffer := rfl
@[simp] theorem register_ctx (k : PosKind) (tag : Tag) (v : Count) : (register k tag v s).ctx = s.ctx := rfl
@[simp] theorem register_ownSent (k : PosKind) (tag : Tag) (v : Count) :
    (register k tag v s).ownSent = s.ownSent := rfl
@[simp] theorem register_belt (k : PosKind) (tag : Tag) (v : Count) : (register k tag v s).belt = s.belt := rfl
@[simp] theorem register_eyeLatch (k : PosKind) (tag : Tag) (v : Count) :
    (register k tag v s).eyeLatch = s.eyeLatch := rfl
@[simp] theorem register_track (k : PosKind) (tag : Tag) (v : Count) : (register k tag v s).track = s.track := rfl
@[simp] theorem register_throttled (k : PosKind) (tag : Tag) (v : Count) :
    (register k tag v s).throttled = s.throttled := rfl
@[simp] theorem register_throttleSeen (k : PosKind) (tag : Tag) (v : Count) :
    (register k tag v s).throttleSeen = s.throttleSeen := rfl
@[simp] theorem register_sweep (k : PosKind) (tag : Tag) (v : Count) : (register k tag v s).sweep = s.sweep := rfl
@[simp] theorem register_pendingSweep (k : PosKind) (tag : Tag) (v : Count) :
    (register k tag v s).pendingSweep = s.pendingSweep := rfl
@[simp] theorem register_buildA (k : PosKind) (tag : Tag) (v : Count) : (register k tag v s).buildA = s.buildA := rfl
@[simp] theorem register_buildB (k : PosKind) (tag : Tag) (v : Count) : (register k tag v s).buildB = s.buildB := rfl
@[simp] theorem register_pick (k : PosKind) (tag : Tag) (v : Count) : (register k tag v s).pick = s.pick := rfl
@[simp] theorem register_inFlight (k : PosKind) (tag : Tag) (v : Count) :
    (register k tag v s).inFlight = s.inFlight := rfl
@[simp] theorem register_seqCounter (k : PosKind) (tag : Tag) (v : Count) :
    (register k tag v s).seqCounter = s.seqCounter := rfl
@[simp] theorem register_robotReady (k : PosKind) (tag : Tag) (v : Count) :
    (register k tag v s).robotReady = s.robotReady := rfl
@[simp] theorem register_receiver (k : PosKind) (tag : Tag) (v : Count) :
    (register k tag v s).receiver = s.receiver := rfl
@[simp] theorem register_urx (k : PosKind) (tag : Tag) (v : Count) : (register k tag v s).urx = s.urx := rfl
@[simp] theorem register_utx (k : PosKind) (tag : Tag) (v : Count) : (register k tag v s).utx = s.utx := rfl
@[simp] theorem register_streak (k : PosKind) (tag : Tag) (v : Count) : (register k tag v s).streak = s.streak := rfl
@[simp] theorem register_cycles (k : PosKind) (tag : Tag) (v : Count) : (register k tag v s).cycles = s.cycles := rfl
@[simp] theorem register_pauseTimer (k : PosKind) (tag : Tag) (v : Count) :
    (register k tag v s).pauseTimer = s.pauseTimer := rfl
@[simp] theorem register_station (k : PosKind) (tag : Tag) (v : Count) :
    (register k tag v s).station = s.station := rfl
@[simp] theorem register_stationNumber (k : PosKind) (tag : Tag) (v : Count) :
    (register k tag v s).stationNumber = s.stationNumber := rfl
@[simp] theorem register_lineSetup (k : PosKind) (tag : Tag) (v : Count) :
    (register k tag v s).lineSetup = s.lineSetup := rfl
@[simp] theorem register_setup1 (k : PosKind) (tag : Tag) (v : Count) : (register k tag v s).setup1 = s.setup1 := rfl
@[simp] theorem register_setup2 (k : PosKind) (tag : Tag) (v : Count) : (register k tag v s).setup2 = s.setup2 := rfl
@[simp] theorem register_pairing (k : PosKind) (tag : Tag) (v : Count) :
    (register k tag v s).pairing = s.pairing := rfl
@[simp] theorem register_fault (k : PosKind) (tag : Tag) (v : Count) : (register k tag v s).fault = s.fault := rfl
@[simp] theorem register_counters (k : PosKind) (tag : Tag) (v : Count) :
    (register k tag v s).counters = s.counters := rfl
@[simp] theorem register_beacons (k : PosKind) (tag : Tag) (v : Count) :
    (register k tag v s).beacons = s.beacons := rfl
@[simp] theorem register_timeBase (k : PosKind) (tag : Tag) (v : Count) :
    (register k tag v s).timeBase = s.timeBase := rfl
@[simp] theorem register_pending (k : PosKind) (tag : Tag) (v : Count) :
    (register k tag v s).pending = s.pending := rfl

/-! ### unregister -/

@[simp] theorem unregister_txQueue (k : PosKind) (tag : Tag) : (unregister k tag s).txQueue = s.txQueue := rfl
@[simp] theorem unregister_rxBuffer (k : PosKind) (tag : Tag) : (unregister k tag s).rxBuffer = s.rxBuffer := rfl
@[simp] theorem unregister_ctx (k : PosKind) (tag : Tag) : (unregister k tag s).ctx = s.ctx := rfl
@[simp] theorem unregister_ownSent (k : PosKind) (tag : Tag) : (unregister k tag s).ownSent = s.ownSent := rfl
@[simp] theorem unregister_belt (k : PosKind) (tag : Tag) : (unregister k tag s).belt = s.belt := rfl
@[simp] theorem unregister_eyeLatch (k : PosKind) (tag : Tag) : (unregister k tag s).eyeLatch = s.eyeLatch := rfl
@[simp] theorem unregister_track (k : PosKind) (tag : Tag) : (unregister k tag s).track = s.track := rfl
@[simp] theorem unregister_throttled (k : PosKind) (tag : Tag) : (unregister k tag s).throttled = s.throttled := rfl
@[simp] theorem unregister_throttleSeen (k : PosKind) (tag : Tag) :
    (unregister k tag s).throttleSeen = s.throttleSeen := rfl
@[simp] theorem unregister_sweep (k : PosKind) (tag : Tag) : (unregister k tag s).sweep = s.sweep := rfl
@[simp] theorem unregister_pendingSweep (k : PosKind) (tag : Tag) :
    (unregister k tag s).pendingSweep = s.pendingSweep := rfl
@[simp] theorem unregister_buildA (k : PosKind) (tag : Tag) : (unregister k tag s).buildA = s.buildA := rfl
@[simp] theorem unregister_buildB (k : PosKind) (tag : Tag) : (unregister k tag s).buildB = s.buildB := rfl
@[simp] theorem unregister_pick (k : PosKind) (tag : Tag) : (unregister k tag s).pick = s.pick := rfl
@[simp] theorem unregister_inFlight (k : PosKind) (tag : Tag) : (unregister k tag s).inFlight = s.inFlight := rfl
@[simp] theorem unregister_seqCounter (k : PosKind) (tag : Tag) :
    (unregister k tag s).seqCounter = s.seqCounter := rfl
@[simp] theorem unregister_robotReady (k : PosKind) (tag : Tag) :
    (unregister k tag s).robotReady = s.robotReady := rfl
@[simp] theorem unregister_receiver (k : PosKind) (tag : Tag) : (unregister k tag s).receiver = s.receiver := rfl
@[simp] theorem unregister_urx (k : PosKind) (tag : Tag) : (unregister k tag s).urx = s.urx := rfl
@[simp] theorem unregister_utx (k : PosKind) (tag : Tag) : (unregister k tag s).utx = s.utx := rfl
@[simp] theorem unregister_streak (k : PosKind) (tag : Tag) : (unregister k tag s).streak = s.streak := rfl
@[simp] theorem unregister_cycles (k : PosKind) (tag : Tag) : (unregister k tag s).cycles = s.cycles := rfl
@[simp] theorem unregister_pauseTimer (k : PosKind) (tag : Tag) :
    (unregister k tag s).pauseTimer = s.pauseTimer := rfl
@[simp] theorem unregister_station (k : PosKind) (tag : Tag) : (unregister k tag s).station = s.station := rfl
@[simp] theorem unregister_stationNumber (k : PosKind) (tag : Tag) :
    (unregister k tag s).stationNumber = s.stationNumber := rfl
@[simp] theorem unregister_lineSetup (k : PosKind) (tag : Tag) : (unregister k tag s).lineSetup = s.lineSetup := rfl
@[simp] theorem unregister_setup1 (k : PosKind) (tag : Tag) : (unregister k tag s).setup1 = s.setup1 := rfl
@[simp] theorem unregister_setup2 (k : PosKind) (tag : Tag) : (unregister k tag s).setup2 = s.setup2 := rfl
@[simp] theorem unregister_pairing (k : PosKind) (tag : Tag) : (unregister k tag s).pairing = s.pairing := rfl
@[simp] theorem unregister_fault (k : PosKind) (tag : Tag) : (unregister k tag s).fault = s.fault := rfl
@[simp] theorem unregister_counters (k : PosKind) (tag : Tag) : (unregister k tag s).counters = s.counters := rfl
@[simp] theorem unregister_beacons (k : PosKind) (tag : Tag) : (unregister k tag s).beacons = s.beacons := rfl
@[simp] theorem unregister_timeBase (k : PosKind) (tag : Tag) : (unregister k tag s).timeBase = s.timeBase := rfl
@[simp] theorem unregister_pending (k : PosKind) (tag : Tag) : (unregister k tag s).pending = s.pending := rfl

/-! ### unregisterTrack -/

@[simp] theorem unregisterTrack_txQueue (tag : Tag) : (unregisterTrack tag s).txQueue = s.txQueue := rfl
@[simp] theorem unregisterTrack_rxBuffer (tag : Tag) : (unregisterTrack tag s).rxBuffer = s.rxBuffer := rfl
@[simp] theorem unregisterTrack_ctx (tag : Tag) : (unregisterTrack tag s).ctx = s.ctx := rfl
@[simp] theorem unregisterTrack_ownSent (tag : Tag) : (unregisterTrack tag s).ownSent = s.ownSent := rfl
@[simp] theorem unregisterTrack_belt (tag : Tag) : (unregisterTrack tag s).belt = s.belt := rfl
@[simp] theorem unregisterTrack_eyeLatch (tag : Tag) : (unregisterTrack tag s).eyeLatch = s.eyeLatch := rfl
@[simp] theorem unregisterTrack_track (tag : Tag) : (unregisterTrack tag s).track = s.track := rfl
@[simp] theorem unregisterTrack_throttled (tag : Tag) : (unregisterTrack tag s).throttled = s.throttled := rfl
@[simp] theorem unregisterTrack_throttleSeen (tag : Tag) :
    (unregisterTrack tag s).throttleSeen = s.throttleSeen := rfl
@[simp] theorem unregisterTrack_sweep (tag : Tag) : (unregisterTrack tag s).sweep = s.sweep := rfl
@[simp] theorem unregisterTrack_pendingSweep (tag : Tag) :
    (unregisterTrack tag s).pendingSweep = s.pendingSweep := rfl
@[simp] theorem unregisterTrack_buildA (tag : Tag) : (unregisterTrack tag s).buildA = s.buildA := rfl
@[simp] theorem unregisterTrack_buildB (tag : Tag) : (unregisterTrack tag s).buildB = s.buildB := rfl
@[simp] theorem unregisterTrack_pick (tag : Tag) : (unregisterTrack tag s).pick = s.pick := rfl
@[simp] theorem unregisterTrack_inFlight (tag : Tag) : (unregisterTrack tag s).inFlight = s.inFlight := rfl
@[simp] theorem unregisterTrack_seqCounter (tag : Tag) : (unregisterTrack tag s).seqCounter = s.seqCounter := rfl
@[simp] theorem unregisterTrack_robotReady (tag : Tag) : (unregisterTrack tag s).robotReady = s.robotReady := rfl
@[simp] theorem unregisterTrack_receiver (tag : Tag) : (unregisterTrack tag s).receiver = s.receiver := rfl
@[simp] theorem unregisterTrack_urx (tag : Tag) : (unregisterTrack tag s).urx = s.urx := rfl
@[simp] theorem unregisterTrack_utx (tag : Tag) : (unregisterTrack tag s).utx = s.utx := rfl
@[simp] theorem unregisterTrack_streak (tag : Tag) : (unregisterTrack tag s).streak = s.streak := rfl
@[simp] theorem unregisterTrack_cycles (tag : Tag) : (unregisterTrack tag s).cycles = s.cycles := rfl
@[simp] theorem unregisterTrack_pauseTimer (tag : Tag) : (unregisterTrack tag s).pauseTimer = s.pauseTimer := rfl
@[simp] theorem unregisterTrack_station (tag : Tag) : (unregisterTrack tag s).station = s.station := rfl
@[simp] theorem unregisterTrack_stationNumber (tag : Tag) :
    (unregisterTrack tag s).stationNumber = s.stationNumber := rfl
@[simp] theorem unregisterTrack_lineSetup (tag : Tag) : (unregisterTrack tag s).lineSetup = s.lineSetup := rfl
@[simp] theorem unregisterTrack_setup1 (tag : Tag) : (unregisterTrack tag s).setup1 = s.setup1 := rfl
@[simp] theorem unregisterTrack_setup2 (tag : Tag) : (unregisterTrack tag s).setup2 = s.setup2 := rfl
@[simp] theorem unregisterTrack_pairing (tag : Tag) : (unregisterTrack tag s).pairing = s.pairing := rfl
@[simp] theorem unregisterTrack_fault (tag : Tag) : (unregisterTrack tag s).fault = s.fault := rfl
@[simp] theorem unregisterTrack_counters (tag : Tag) : (unregisterTrack tag s).counters = s.counters := rfl
@[simp] theorem unregisterTrack_beacons (tag : Tag) : (unregisterTrack tag s).beacons = s.beacons := rfl
@[simp] theorem unregisterTrack_timeBase (tag : Tag) : (unregisterTrack tag s).timeBase = s.timeBase := rfl
@[simp] theorem unregisterTrack_pending (tag : Tag) : (unregisterTrack tag s).pending = s.pending := rfl

/-! ### unregisterPick -/

@[simp] theorem unregisterPick_txQueue (tag : Tag) : (unregisterPick tag s).txQueue = s.txQueue := rfl
@[simp] theorem unregisterPick_rxBuffer (tag : Tag) : (unregisterPick tag s).rxBuffer = s.rxBuffer := rfl
@[simp] theorem unregisterPick_ctx (tag : Tag) : (unregisterPick tag s).ctx = s.ctx := rfl
@[simp] theorem unregisterPick_ownSent (tag : Tag) : (unregisterPick tag s).ownSent = s.ownSent := rfl
@[simp] theorem unregisterPick_belt (tag : Tag) : (unregisterPick tag s).belt = s.belt := rfl
@[simp] theorem unregisterPick_eyeLatch (tag : Tag) : (unregisterPick tag s).eyeLatch = s.eyeLatch := rfl
@[simp] theorem unregisterPick_track (tag : Tag) : (unregisterPick tag s).track = s.track := rfl
@[simp] theorem unregisterPick_throttled (tag : Tag) : (unregisterPick tag s).throttled = s.throttled := rfl
@[simp] theorem unregisterPick_throttleSeen (tag : Tag) : (unregisterPick tag s).throttleSeen = s.throttleSeen := rfl
@[simp] theorem unregisterPick_sweep (tag : Tag) : (unregisterPick tag s).sweep = s.sweep := rfl
@[simp] theorem unregisterPick_pendingSweep (tag : Tag) : (unregisterPick tag s).pendingSweep = s.pendingSweep := rfl
@[simp] theorem unregisterPick_buildA (tag : Tag) : (unregisterPick tag s).buildA = s.buildA := rfl
@[simp] theorem unregisterPick_buildB (tag : Tag) : (unregisterPick tag s).buildB = s.buildB := rfl
@[simp] theorem unregisterPick_pick (tag : Tag) : (unregisterPick tag s).pick = s.pick := rfl
@[simp] theorem unregisterPick_inFlight (tag : Tag) : (unregisterPick tag s).inFlight = s.inFlight := rfl
@[simp] theorem unregisterPick_seqCounter (tag : Tag) : (unregisterPick tag s).seqCounter = s.seqCounter := rfl
@[simp] theorem unregisterPick_robotReady (tag : Tag) : (unregisterPick tag s).robotReady = s.robotReady := rfl
@[simp] theorem unregisterPick_receiver (tag : Tag) : (unregisterPick tag s).receiver = s.receiver := rfl
@[simp] theorem unregisterPick_urx (tag : Tag) : (unregisterPick tag s).urx = s.urx := rfl
@[simp] theorem unregisterPick_utx (tag : Tag) : (unregisterPick tag s).utx = s.utx := rfl
@[simp] theorem unregisterPick_streak (tag : Tag) : (unregisterPick tag s).streak = s.streak := rfl
@[simp] theorem unregisterPick_cycles (tag : Tag) : (unregisterPick tag s).cycles = s.cycles := rfl
@[simp] theorem unregisterPick_pauseTimer (tag : Tag) : (unregisterPick tag s).pauseTimer = s.pauseTimer := rfl
@[simp] theorem unregisterPick_station (tag : Tag) : (unregisterPick tag s).station = s.station := rfl
@[simp] theorem unregisterPick_stationNumber (tag : Tag) :
    (unregisterPick tag s).stationNumber = s.stationNumber := rfl
@[simp] theorem unregisterPick_lineSetup (tag : Tag) : (unregisterPick tag s).lineSetup = s.lineSetup := rfl
@[simp] theorem unregisterPick_setup1 (tag : Tag) : (unregisterPick tag s).setup1 = s.setup1 := rfl
@[simp] theorem unregisterPick_setup2 (tag : Tag) : (unregisterPick tag s).setup2 = s.setup2 := rfl
@[simp] theorem unregisterPick_pairing (tag : Tag) : (unregisterPick tag s).pairing = s.pairing := rfl
@[simp] theorem unregisterPick_fault (tag : Tag) : (unregisterPick tag s).fault = s.fault := rfl
@[simp] theorem unregisterPick_counters (tag : Tag) : (unregisterPick tag s).counters = s.counters := rfl
@[simp] theorem unregisterPick_beacons (tag : Tag) : (unregisterPick tag s).beacons = s.beacons := rfl
@[simp] theorem unregisterPick_timeBase (tag : Tag) : (unregisterPick tag s).timeBase = s.timeBase := rfl
@[simp] theorem unregisterPick_pending (tag : Tag) : (unregisterPick tag s).pending = s.pending := rfl

/-! ### count -/

@[simp] theorem count_txQueue (c : CounterName) : (count c s).txQueue = s.txQueue := rfl
@[simp] theorem count_rxBuffer (c : CounterName) : (count c s).rxBuffer = s.rxBuffer := rfl
@[simp] theorem count_ctx (c : CounterName) : (count c s).ctx = s.ctx := rfl
@[simp] theorem count_ownSent (c : CounterName) : (count c s).ownSent = s.ownSent := rfl
@[simp] theorem count_belt (c : CounterName) : (count c s).belt = s.belt := rfl
@[simp] theorem count_positions (c : CounterName) : (count c s).positions = s.positions := rfl
@[simp] theorem count_eyeLatch (c : CounterName) : (count c s).eyeLatch = s.eyeLatch := rfl
@[simp] theorem count_track (c : CounterName) : (count c s).track = s.track := rfl
@[simp] theorem count_throttled (c : CounterName) : (count c s).throttled = s.throttled := rfl
@[simp] theorem count_throttleSeen (c : CounterName) : (count c s).throttleSeen = s.throttleSeen := rfl
@[simp] theorem count_sweep (c : CounterName) : (count c s).sweep = s.sweep := rfl
@[simp] theorem count_pendingSweep (c : CounterName) : (count c s).pendingSweep = s.pendingSweep := rfl
@[simp] theorem count_buildA (c : CounterName) : (count c s).buildA = s.buildA := rfl
@[simp] theorem count_buildB (c : CounterName) : (count c s).buildB = s.buildB := rfl
@[simp] theorem count_pick (c : CounterName) : (count c s).pick = s.pick := rfl
@[simp] theorem count_inFlight (c : CounterName) : (count c s).inFlight = s.inFlight := rfl
@[simp] theorem count_seqCounter (c : CounterName) : (count c s).seqCounter = s.seqCounter := rfl
@[simp] theorem count_robotReady (c : CounterName) : (count c s).robotReady = s.robotReady := rfl
@[simp] theorem count_receiver (c : CounterName) : (count c s).receiver = s.receiver := rfl
@[simp] theorem count_urx (c : CounterName) : (count c s).urx = s.urx := rfl
@[simp] theorem count_utx (c : CounterName) : (count c s).utx = s.utx := rfl
@[simp] theorem count_streak (c : CounterName) : (count c s).streak = s.streak := rfl
@[simp] theorem count_cycles (c : CounterName) : (count c s).cycles = s.cycles := rfl
@[simp] theorem count_pauseTimer (c : CounterName) : (count c s).pauseTimer = s.pauseTimer := rfl
@[simp] theorem count_station (c : CounterName) : (count c s).station = s.station := rfl
@[simp] theorem count_stationNumber (c : CounterName) : (count c s).stationNumber = s.stationNumber := rfl
@[simp] theorem count_lineSetup (c : CounterName) : (count c s).lineSetup = s.lineSetup := rfl
@[simp] theorem count_setup1 (c : CounterName) : (count c s).setup1 = s.setup1 := rfl
@[simp] theorem count_setup2 (c : CounterName) : (count c s).setup2 = s.setup2 := rfl
@[simp] theorem count_pairing (c : CounterName) : (count c s).pairing = s.pairing := rfl
@[simp] theorem count_fault (c : CounterName) : (count c s).fault = s.fault := rfl
@[simp] theorem count_beacons (c : CounterName) : (count c s).beacons = s.beacons := rfl
@[simp] theorem count_timeBase (c : CounterName) : (count c s).timeBase = s.timeBase := rfl
@[simp] theorem count_pending (c : CounterName) : (count c s).pending = s.pending := rfl

/-! ### offer -/

@[simp] theorem offer_rxBuffer (b : TxBody) : (offer b s).rxBuffer = s.rxBuffer := rfl
@[simp] theorem offer_ctx (b : TxBody) : (offer b s).ctx = s.ctx := rfl
@[simp] theorem offer_ownSent (b : TxBody) : (offer b s).ownSent = s.ownSent := rfl
@[simp] theorem offer_belt (b : TxBody) : (offer b s).belt = s.belt := rfl
@[simp] theorem offer_positions (b : TxBody) : (offer b s).positions = s.positions := rfl
@[simp] theorem offer_eyeLatch (b : TxBody) : (offer b s).eyeLatch = s.eyeLatch := rfl
@[simp] theorem offer_track (b : TxBody) : (offer b s).track = s.track := rfl
@[simp] theorem offer_throttled (b : TxBody) : (offer b s).throttled = s.throttled := rfl
@[simp] theorem offer_throttleSeen (b : TxBody) : (offer b s).throttleSeen = s.throttleSeen := rfl
@[simp] theorem offer_sweep (b : TxBody) : (offer b s).sweep = s.sweep := rfl
@[simp] theorem offer_pendingSweep (b : TxBody) : (offer b s).pendingSweep = s.pendingSweep := rfl
@[simp] theorem offer_buildA (b : TxBody) : (offer b s).buildA = s.buildA := rfl
@[simp] theorem offer_buildB (b : TxBody) : (offer b s).buildB = s.buildB := rfl
@[simp] theorem offer_pick (b : TxBody) : (offer b s).pick = s.pick := rfl
@[simp] theorem offer_inFlight (b : TxBody) : (offer b s).inFlight = s.inFlight := rfl
@[simp] theorem offer_seqCounter (b : TxBody) : (offer b s).seqCounter = s.seqCounter := rfl
@[simp] theorem offer_robotReady (b : TxBody) : (offer b s).robotReady = s.robotReady := rfl
@[simp] theorem offer_receiver (b : TxBody) : (offer b s).receiver = s.receiver := rfl
@[simp] theorem offer_urx (b : TxBody) : (offer b s).urx = s.urx := rfl
@[simp] theorem offer_utx (b : TxBody) : (offer b s).utx = s.utx := rfl
@[simp] theorem offer_streak (b : TxBody) : (offer b s).streak = s.streak := rfl
@[simp] theorem offer_cycles (b : TxBody) : (offer b s).cycles = s.cycles := rfl
@[simp] theorem offer_pauseTimer (b : TxBody) : (offer b s).pauseTimer = s.pauseTimer := rfl
@[simp] theorem offer_station (b : TxBody) : (offer b s).station = s.station := rfl
@[simp] theorem offer_stationNumber (b : TxBody) : (offer b s).stationNumber = s.stationNumber := rfl
@[simp] theorem offer_lineSetup (b : TxBody) : (offer b s).lineSetup = s.lineSetup := rfl
@[simp] theorem offer_setup1 (b : TxBody) : (offer b s).setup1 = s.setup1 := rfl
@[simp] theorem offer_setup2 (b : TxBody) : (offer b s).setup2 = s.setup2 := rfl
@[simp] theorem offer_pairing (b : TxBody) : (offer b s).pairing = s.pairing := rfl
@[simp] theorem offer_fault (b : TxBody) : (offer b s).fault = s.fault := rfl
@[simp] theorem offer_beacons (b : TxBody) : (offer b s).beacons = s.beacons := rfl
@[simp] theorem offer_timeBase (b : TxBody) : (offer b s).timeBase = s.timeBase := rfl
@[simp] theorem offer_pending (b : TxBody) : (offer b s).pending = s.pending := rfl

/-! ### queueClaim -/

@[simp] theorem queueClaim_rxBuffer (tag : Tag) (n : Nat) (b : BuildId) :
    (queueClaim tag n b s).rxBuffer = s.rxBuffer := rfl
@[simp] theorem queueClaim_ctx (tag : Tag) (n : Nat) (b : BuildId) : (queueClaim tag n b s).ctx = s.ctx := rfl
@[simp] theorem queueClaim_ownSent (tag : Tag) (n : Nat) (b : BuildId) :
    (queueClaim tag n b s).ownSent = s.ownSent := rfl
@[simp] theorem queueClaim_belt (tag : Tag) (n : Nat) (b : BuildId) : (queueClaim tag n b s).belt = s.belt := rfl
@[simp] theorem queueClaim_positions (tag : Tag) (n : Nat) (b : BuildId) :
    (queueClaim tag n b s).positions = s.positions := rfl
@[simp] theorem queueClaim_eyeLatch (tag : Tag) (n : Nat) (b : BuildId) :
    (queueClaim tag n b s).eyeLatch = s.eyeLatch := rfl
@[simp] theorem queueClaim_track (tag : Tag) (n : Nat) (b : BuildId) : (queueClaim tag n b s).track = s.track := rfl
@[simp] theorem queueClaim_throttled (tag : Tag) (n : Nat) (b : BuildId) :
    (queueClaim tag n b s).throttled = s.throttled := rfl
@[simp] theorem queueClaim_throttleSeen (tag : Tag) (n : Nat) (b : BuildId) :
    (queueClaim tag n b s).throttleSeen = s.throttleSeen := rfl
@[simp] theorem queueClaim_sweep (tag : Tag) (n : Nat) (b : BuildId) : (queueClaim tag n b s).sweep = s.sweep := rfl
@[simp] theorem queueClaim_pendingSweep (tag : Tag) (n : Nat) (b : BuildId) :
    (queueClaim tag n b s).pendingSweep = s.pendingSweep := rfl
@[simp] theorem queueClaim_buildA (tag : Tag) (n : Nat) (b : BuildId) :
    (queueClaim tag n b s).buildA = s.buildA := rfl
@[simp] theorem queueClaim_buildB (tag : Tag) (n : Nat) (b : BuildId) :
    (queueClaim tag n b s).buildB = s.buildB := rfl
@[simp] theorem queueClaim_pick (tag : Tag) (n : Nat) (b : BuildId) : (queueClaim tag n b s).pick = s.pick := rfl
@[simp] theorem queueClaim_inFlight (tag : Tag) (n : Nat) (b : BuildId) :
    (queueClaim tag n b s).inFlight = s.inFlight := rfl
@[simp] theorem queueClaim_seqCounter (tag : Tag) (n : Nat) (b : BuildId) :
    (queueClaim tag n b s).seqCounter = s.seqCounter := rfl
@[simp] theorem queueClaim_robotReady (tag : Tag) (n : Nat) (b : BuildId) :
    (queueClaim tag n b s).robotReady = s.robotReady := rfl
@[simp] theorem queueClaim_receiver (tag : Tag) (n : Nat) (b : BuildId) :
    (queueClaim tag n b s).receiver = s.receiver := rfl
@[simp] theorem queueClaim_urx (tag : Tag) (n : Nat) (b : BuildId) : (queueClaim tag n b s).urx = s.urx := rfl
@[simp] theorem queueClaim_utx (tag : Tag) (n : Nat) (b : BuildId) : (queueClaim tag n b s).utx = s.utx := rfl
@[simp] theorem queueClaim_streak (tag : Tag) (n : Nat) (b : BuildId) :
    (queueClaim tag n b s).streak = s.streak := rfl
@[simp] theorem queueClaim_cycles (tag : Tag) (n : Nat) (b : BuildId) :
    (queueClaim tag n b s).cycles = s.cycles := rfl
@[simp] theorem queueClaim_pauseTimer (tag : Tag) (n : Nat) (b : BuildId) :
    (queueClaim tag n b s).pauseTimer = s.pauseTimer := rfl
@[simp] theorem queueClaim_station (tag : Tag) (n : Nat) (b : BuildId) :
    (queueClaim tag n b s).station = s.station := rfl
@[simp] theorem queueClaim_stationNumber (tag : Tag) (n : Nat) (b : BuildId) :
    (queueClaim tag n b s).stationNumber = s.stationNumber := rfl
@[simp] theorem queueClaim_lineSetup (tag : Tag) (n : Nat) (b : BuildId) :
    (queueClaim tag n b s).lineSetup = s.lineSetup := rfl
@[simp] theorem queueClaim_setup1 (tag : Tag) (n : Nat) (b : BuildId) :
    (queueClaim tag n b s).setup1 = s.setup1 := rfl
@[simp] theorem queueClaim_setup2 (tag : Tag) (n : Nat) (b : BuildId) :
    (queueClaim tag n b s).setup2 = s.setup2 := rfl
@[simp] theorem queueClaim_pairing (tag : Tag) (n : Nat) (b : BuildId) :
    (queueClaim tag n b s).pairing = s.pairing := rfl
@[simp] theorem queueClaim_fault (tag : Tag) (n : Nat) (b : BuildId) : (queueClaim tag n b s).fault = s.fault := rfl
@[simp] theorem queueClaim_counters (tag : Tag) (n : Nat) (b : BuildId) :
    (queueClaim tag n b s).counters = s.counters := rfl
@[simp] theorem queueClaim_beacons (tag : Tag) (n : Nat) (b : BuildId) :
    (queueClaim tag n b s).beacons = s.beacons := rfl
@[simp] theorem queueClaim_timeBase (tag : Tag) (n : Nat) (b : BuildId) :
    (queueClaim tag n b s).timeBase = s.timeBase := rfl
@[simp] theorem queueClaim_pending (tag : Tag) (n : Nat) (b : BuildId) :
    (queueClaim tag n b s).pending = s.pending := rfl

/-! ### abortClaim -/

@[simp] theorem abortClaim_rxBuffer (tag : Tag) : (abortClaim tag s).rxBuffer = s.rxBuffer := rfl
@[simp] theorem abortClaim_ctx (tag : Tag) : (abortClaim tag s).ctx = s.ctx := rfl
@[simp] theorem abortClaim_ownSent (tag : Tag) : (abortClaim tag s).ownSent = s.ownSent := rfl
@[simp] theorem abortClaim_belt (tag : Tag) : (abortClaim tag s).belt = s.belt := rfl
@[simp] theorem abortClaim_positions (tag : Tag) : (abortClaim tag s).positions = s.positions := rfl
@[simp] theorem abortClaim_eyeLatch (tag : Tag) : (abortClaim tag s).eyeLatch = s.eyeLatch := rfl
@[simp] theorem abortClaim_track (tag : Tag) : (abortClaim tag s).track = s.track := rfl
@[simp] theorem abortClaim_throttled (tag : Tag) : (abortClaim tag s).throttled = s.throttled := rfl
@[simp] theorem abortClaim_throttleSeen (tag : Tag) : (abortClaim tag s).throttleSeen = s.throttleSeen := rfl
@[simp] theorem abortClaim_sweep (tag : Tag) : (abortClaim tag s).sweep = s.sweep := rfl
@[simp] theorem abortClaim_pendingSweep (tag : Tag) : (abortClaim tag s).pendingSweep = s.pendingSweep := rfl
@[simp] theorem abortClaim_buildA (tag : Tag) : (abortClaim tag s).buildA = s.buildA := rfl
@[simp] theorem abortClaim_buildB (tag : Tag) : (abortClaim tag s).buildB = s.buildB := rfl
@[simp] theorem abortClaim_pick (tag : Tag) : (abortClaim tag s).pick = s.pick := rfl
@[simp] theorem abortClaim_inFlight (tag : Tag) : (abortClaim tag s).inFlight = s.inFlight := rfl
@[simp] theorem abortClaim_seqCounter (tag : Tag) : (abortClaim tag s).seqCounter = s.seqCounter := rfl
@[simp] theorem abortClaim_robotReady (tag : Tag) : (abortClaim tag s).robotReady = s.robotReady := rfl
@[simp] theorem abortClaim_receiver (tag : Tag) : (abortClaim tag s).receiver = s.receiver := rfl
@[simp] theorem abortClaim_urx (tag : Tag) : (abortClaim tag s).urx = s.urx := rfl
@[simp] theorem abortClaim_utx (tag : Tag) : (abortClaim tag s).utx = s.utx := rfl
@[simp] theorem abortClaim_streak (tag : Tag) : (abortClaim tag s).streak = s.streak := rfl
@[simp] theorem abortClaim_cycles (tag : Tag) : (abortClaim tag s).cycles = s.cycles := rfl
@[simp] theorem abortClaim_pauseTimer (tag : Tag) : (abortClaim tag s).pauseTimer = s.pauseTimer := rfl
@[simp] theorem abortClaim_station (tag : Tag) : (abortClaim tag s).station = s.station := rfl
@[simp] theorem abortClaim_stationNumber (tag : Tag) : (abortClaim tag s).stationNumber = s.stationNumber := rfl
@[simp] theorem abortClaim_lineSetup (tag : Tag) : (abortClaim tag s).lineSetup = s.lineSetup := rfl
@[simp] theorem abortClaim_setup1 (tag : Tag) : (abortClaim tag s).setup1 = s.setup1 := rfl
@[simp] theorem abortClaim_setup2 (tag : Tag) : (abortClaim tag s).setup2 = s.setup2 := rfl
@[simp] theorem abortClaim_pairing (tag : Tag) : (abortClaim tag s).pairing = s.pairing := rfl
@[simp] theorem abortClaim_fault (tag : Tag) : (abortClaim tag s).fault = s.fault := rfl
@[simp] theorem abortClaim_counters (tag : Tag) : (abortClaim tag s).counters = s.counters := rfl
@[simp] theorem abortClaim_beacons (tag : Tag) : (abortClaim tag s).beacons = s.beacons := rfl
@[simp] theorem abortClaim_timeBase (tag : Tag) : (abortClaim tag s).timeBase = s.timeBase := rfl
@[simp] theorem abortClaim_pending (tag : Tag) : (abortClaim tag s).pending = s.pending := rfl

/-! ### unlinkClaim -/

@[simp] theorem unlinkClaim_rxBuffer (tag : Tag) : (unlinkClaim tag s).rxBuffer = s.rxBuffer := rfl
@[simp] theorem unlinkClaim_ctx (tag : Tag) : (unlinkClaim tag s).ctx = s.ctx := rfl
@[simp] theorem unlinkClaim_ownSent (tag : Tag) : (unlinkClaim tag s).ownSent = s.ownSent := rfl
@[simp] theorem unlinkClaim_belt (tag : Tag) : (unlinkClaim tag s).belt = s.belt := rfl
@[simp] theorem unlinkClaim_positions (tag : Tag) : (unlinkClaim tag s).positions = s.positions := rfl
@[simp] theorem unlinkClaim_eyeLatch (tag : Tag) : (unlinkClaim tag s).eyeLatch = s.eyeLatch := rfl
@[simp] theorem unlinkClaim_track (tag : Tag) : (unlinkClaim tag s).track = s.track := rfl
@[simp] theorem unlinkClaim_throttled (tag : Tag) : (unlinkClaim tag s).throttled = s.throttled := rfl
@[simp] theorem unlinkClaim_throttleSeen (tag : Tag) : (unlinkClaim tag s).throttleSeen = s.throttleSeen := rfl
@[simp] theorem unlinkClaim_sweep (tag : Tag) : (unlinkClaim tag s).sweep = s.sweep := rfl
@[simp] theorem unlinkClaim_pendingSweep (tag : Tag) : (unlinkClaim tag s).pendingSweep = s.pendingSweep := rfl
@[simp] theorem unlinkClaim_buildA (tag : Tag) : (unlinkClaim tag s).buildA = s.buildA := rfl
@[simp] theorem unlinkClaim_buildB (tag : Tag) : (unlinkClaim tag s).buildB = s.buildB := rfl
@[simp] theorem unlinkClaim_pick (tag : Tag) : (unlinkClaim tag s).pick = s.pick := rfl
@[simp] theorem unlinkClaim_inFlight (tag : Tag) : (unlinkClaim tag s).inFlight = s.inFlight := rfl
@[simp] theorem unlinkClaim_seqCounter (tag : Tag) : (unlinkClaim tag s).seqCounter = s.seqCounter := rfl
@[simp] theorem unlinkClaim_robotReady (tag : Tag) : (unlinkClaim tag s).robotReady = s.robotReady := rfl
@[simp] theorem unlinkClaim_receiver (tag : Tag) : (unlinkClaim tag s).receiver = s.receiver := rfl
@[simp] theorem unlinkClaim_urx (tag : Tag) : (unlinkClaim tag s).urx = s.urx := rfl
@[simp] theorem unlinkClaim_utx (tag : Tag) : (unlinkClaim tag s).utx = s.utx := rfl
@[simp] theorem unlinkClaim_streak (tag : Tag) : (unlinkClaim tag s).streak = s.streak := rfl
@[simp] theorem unlinkClaim_cycles (tag : Tag) : (unlinkClaim tag s).cycles = s.cycles := rfl
@[simp] theorem unlinkClaim_pauseTimer (tag : Tag) : (unlinkClaim tag s).pauseTimer = s.pauseTimer := rfl
@[simp] theorem unlinkClaim_station (tag : Tag) : (unlinkClaim tag s).station = s.station := rfl
@[simp] theorem unlinkClaim_stationNumber (tag : Tag) : (unlinkClaim tag s).stationNumber = s.stationNumber := rfl
@[simp] theorem unlinkClaim_lineSetup (tag : Tag) : (unlinkClaim tag s).lineSetup = s.lineSetup := rfl
@[simp] theorem unlinkClaim_setup1 (tag : Tag) : (unlinkClaim tag s).setup1 = s.setup1 := rfl
@[simp] theorem unlinkClaim_setup2 (tag : Tag) : (unlinkClaim tag s).setup2 = s.setup2 := rfl
@[simp] theorem unlinkClaim_pairing (tag : Tag) : (unlinkClaim tag s).pairing = s.pairing := rfl
@[simp] theorem unlinkClaim_fault (tag : Tag) : (unlinkClaim tag s).fault = s.fault := rfl
@[simp] theorem unlinkClaim_counters (tag : Tag) : (unlinkClaim tag s).counters = s.counters := rfl
@[simp] theorem unlinkClaim_beacons (tag : Tag) : (unlinkClaim tag s).beacons = s.beacons := rfl
@[simp] theorem unlinkClaim_timeBase (tag : Tag) : (unlinkClaim tag s).timeBase = s.timeBase := rfl
@[simp] theorem unlinkClaim_pending (tag : Tag) : (unlinkClaim tag s).pending = s.pending := rfl

/-! ### triggerSweep -/

@[simp] theorem triggerSweep_txQueue : (triggerSweep s).txQueue = s.txQueue := rfl
@[simp] theorem triggerSweep_rxBuffer : (triggerSweep s).rxBuffer = s.rxBuffer := rfl
@[simp] theorem triggerSweep_ctx : (triggerSweep s).ctx = s.ctx := rfl
@[simp] theorem triggerSweep_ownSent : (triggerSweep s).ownSent = s.ownSent := rfl
@[simp] theorem triggerSweep_belt : (triggerSweep s).belt = s.belt := rfl
@[simp] theorem triggerSweep_positions : (triggerSweep s).positions = s.positions := rfl
@[simp] theorem triggerSweep_eyeLatch : (triggerSweep s).eyeLatch = s.eyeLatch := rfl
@[simp] theorem triggerSweep_track : (triggerSweep s).track = s.track := rfl
@[simp] theorem triggerSweep_throttled : (triggerSweep s).throttled = s.throttled := rfl
@[simp] theorem triggerSweep_throttleSeen : (triggerSweep s).throttleSeen = s.throttleSeen := rfl
@[simp] theorem triggerSweep_buildA : (triggerSweep s).buildA = s.buildA := rfl
@[simp] theorem triggerSweep_buildB : (triggerSweep s).buildB = s.buildB := rfl
@[simp] theorem triggerSweep_pick : (triggerSweep s).pick = s.pick := rfl
@[simp] theorem triggerSweep_inFlight : (triggerSweep s).inFlight = s.inFlight := rfl
@[simp] theorem triggerSweep_seqCounter : (triggerSweep s).seqCounter = s.seqCounter := rfl
@[simp] theorem triggerSweep_robotReady : (triggerSweep s).robotReady = s.robotReady := rfl
@[simp] theorem triggerSweep_receiver : (triggerSweep s).receiver = s.receiver := rfl
@[simp] theorem triggerSweep_urx : (triggerSweep s).urx = s.urx := rfl
@[simp] theorem triggerSweep_utx : (triggerSweep s).utx = s.utx := rfl
@[simp] theorem triggerSweep_streak : (triggerSweep s).streak = s.streak := rfl
@[simp] theorem triggerSweep_cycles : (triggerSweep s).cycles = s.cycles := rfl
@[simp] theorem triggerSweep_pauseTimer : (triggerSweep s).pauseTimer = s.pauseTimer := rfl
@[simp] theorem triggerSweep_station : (triggerSweep s).station = s.station := rfl
@[simp] theorem triggerSweep_stationNumber : (triggerSweep s).stationNumber = s.stationNumber := rfl
@[simp] theorem triggerSweep_lineSetup : (triggerSweep s).lineSetup = s.lineSetup := rfl
@[simp] theorem triggerSweep_setup1 : (triggerSweep s).setup1 = s.setup1 := rfl
@[simp] theorem triggerSweep_setup2 : (triggerSweep s).setup2 = s.setup2 := rfl
@[simp] theorem triggerSweep_pairing : (triggerSweep s).pairing = s.pairing := rfl
@[simp] theorem triggerSweep_fault : (triggerSweep s).fault = s.fault := rfl
@[simp] theorem triggerSweep_counters : (triggerSweep s).counters = s.counters := rfl
@[simp] theorem triggerSweep_beacons : (triggerSweep s).beacons = s.beacons := rfl
@[simp] theorem triggerSweep_timeBase : (triggerSweep s).timeBase = s.timeBase := rfl
@[simp] theorem triggerSweep_pending : (triggerSweep s).pending = s.pending := rfl

/-! ### endSweep -/

@[simp] theorem endSweep_txQueue : (endSweep s).txQueue = s.txQueue := rfl
@[simp] theorem endSweep_rxBuffer : (endSweep s).rxBuffer = s.rxBuffer := rfl
@[simp] theorem endSweep_ctx : (endSweep s).ctx = s.ctx := rfl
@[simp] theorem endSweep_ownSent : (endSweep s).ownSent = s.ownSent := rfl
@[simp] theorem endSweep_belt : (endSweep s).belt = s.belt := rfl
@[simp] theorem endSweep_positions : (endSweep s).positions = s.positions := rfl
@[simp] theorem endSweep_eyeLatch : (endSweep s).eyeLatch = s.eyeLatch := rfl
@[simp] theorem endSweep_track : (endSweep s).track = s.track := rfl
@[simp] theorem endSweep_throttled : (endSweep s).throttled = s.throttled := rfl
@[simp] theorem endSweep_throttleSeen : (endSweep s).throttleSeen = s.throttleSeen := rfl
@[simp] theorem endSweep_buildA : (endSweep s).buildA = s.buildA := rfl
@[simp] theorem endSweep_buildB : (endSweep s).buildB = s.buildB := rfl
@[simp] theorem endSweep_pick : (endSweep s).pick = s.pick := rfl
@[simp] theorem endSweep_inFlight : (endSweep s).inFlight = s.inFlight := rfl
@[simp] theorem endSweep_seqCounter : (endSweep s).seqCounter = s.seqCounter := rfl
@[simp] theorem endSweep_robotReady : (endSweep s).robotReady = s.robotReady := rfl
@[simp] theorem endSweep_receiver : (endSweep s).receiver = s.receiver := rfl
@[simp] theorem endSweep_urx : (endSweep s).urx = s.urx := rfl
@[simp] theorem endSweep_utx : (endSweep s).utx = s.utx := rfl
@[simp] theorem endSweep_streak : (endSweep s).streak = s.streak := rfl
@[simp] theorem endSweep_cycles : (endSweep s).cycles = s.cycles := rfl
@[simp] theorem endSweep_pauseTimer : (endSweep s).pauseTimer = s.pauseTimer := rfl
@[simp] theorem endSweep_station : (endSweep s).station = s.station := rfl
@[simp] theorem endSweep_stationNumber : (endSweep s).stationNumber = s.stationNumber := rfl
@[simp] theorem endSweep_lineSetup : (endSweep s).lineSetup = s.lineSetup := rfl
@[simp] theorem endSweep_setup1 : (endSweep s).setup1 = s.setup1 := rfl
@[simp] theorem endSweep_setup2 : (endSweep s).setup2 = s.setup2 := rfl
@[simp] theorem endSweep_pairing : (endSweep s).pairing = s.pairing := rfl
@[simp] theorem endSweep_fault : (endSweep s).fault = s.fault := rfl
@[simp] theorem endSweep_counters : (endSweep s).counters = s.counters := rfl
@[simp] theorem endSweep_beacons : (endSweep s).beacons = s.beacons := rfl
@[simp] theorem endSweep_timeBase : (endSweep s).timeBase = s.timeBase := rfl
@[simp] theorem endSweep_pending : (endSweep s).pending = s.pending := rfl

/-! ### updateRecord -/

@[simp] theorem updateRecord_txQueue (tag : Tag) (f : TrackRecord → TrackRecord) :
    (updateRecord tag f s).txQueue = s.txQueue := rfl
@[simp] theorem updateRecord_rxBuffer (tag : Tag) (f : TrackRecord → TrackRecord) :
    (updateRecord tag f s).rxBuffer = s.rxBuffer := rfl
@[simp] theorem updateRecord_ctx (tag : Tag) (f : TrackRecord → TrackRecord) :
    (updateRecord tag f s).ctx = s.ctx := rfl
@[simp] theorem updateRecord_ownSent (tag : Tag) (f : TrackRecord → TrackRecord) :
    (updateRecord tag f s).ownSent = s.ownSent := rfl
@[simp] theorem updateRecord_belt (tag : Tag) (f : TrackRecord → TrackRecord) :
    (updateRecord tag f s).belt = s.belt := rfl
@[simp] theorem updateRecord_positions (tag : Tag) (f : TrackRecord → TrackRecord) :
    (updateRecord tag f s).positions = s.positions := rfl
@[simp] theorem updateRecord_eyeLatch (tag : Tag) (f : TrackRecord → TrackRecord) :
    (updateRecord tag f s).eyeLatch = s.eyeLatch := rfl
@[simp] theorem updateRecord_throttled (tag : Tag) (f : TrackRecord → TrackRecord) :
    (updateRecord tag f s).throttled = s.throttled := rfl
@[simp] theorem updateRecord_throttleSeen (tag : Tag) (f : TrackRecord → TrackRecord) :
    (updateRecord tag f s).throttleSeen = s.throttleSeen := rfl
@[simp] theorem updateRecord_sweep (tag : Tag) (f : TrackRecord → TrackRecord) :
    (updateRecord tag f s).sweep = s.sweep := rfl
@[simp] theorem updateRecord_pendingSweep (tag : Tag) (f : TrackRecord → TrackRecord) :
    (updateRecord tag f s).pendingSweep = s.pendingSweep := rfl
@[simp] theorem updateRecord_buildA (tag : Tag) (f : TrackRecord → TrackRecord) :
    (updateRecord tag f s).buildA = s.buildA := rfl
@[simp] theorem updateRecord_buildB (tag : Tag) (f : TrackRecord → TrackRecord) :
    (updateRecord tag f s).buildB = s.buildB := rfl
@[simp] theorem updateRecord_pick (tag : Tag) (f : TrackRecord → TrackRecord) :
    (updateRecord tag f s).pick = s.pick := rfl
@[simp] theorem updateRecord_inFlight (tag : Tag) (f : TrackRecord → TrackRecord) :
    (updateRecord tag f s).inFlight = s.inFlight := rfl
@[simp] theorem updateRecord_seqCounter (tag : Tag) (f : TrackRecord → TrackRecord) :
    (updateRecord tag f s).seqCounter = s.seqCounter := rfl
@[simp] theorem updateRecord_robotReady (tag : Tag) (f : TrackRecord → TrackRecord) :
    (updateRecord tag f s).robotReady = s.robotReady := rfl
@[simp] theorem updateRecord_receiver (tag : Tag) (f : TrackRecord → TrackRecord) :
    (updateRecord tag f s).receiver = s.receiver := rfl
@[simp] theorem updateRecord_urx (tag : Tag) (f : TrackRecord → TrackRecord) :
    (updateRecord tag f s).urx = s.urx := rfl
@[simp] theorem updateRecord_utx (tag : Tag) (f : TrackRecord → TrackRecord) :
    (updateRecord tag f s).utx = s.utx := rfl
@[simp] theorem updateRecord_streak (tag : Tag) (f : TrackRecord → TrackRecord) :
    (updateRecord tag f s).streak = s.streak := rfl
@[simp] theorem updateRecord_cycles (tag : Tag) (f : TrackRecord → TrackRecord) :
    (updateRecord tag f s).cycles = s.cycles := rfl
@[simp] theorem updateRecord_pauseTimer (tag : Tag) (f : TrackRecord → TrackRecord) :
    (updateRecord tag f s).pauseTimer = s.pauseTimer := rfl
@[simp] theorem updateRecord_station (tag : Tag) (f : TrackRecord → TrackRecord) :
    (updateRecord tag f s).station = s.station := rfl
@[simp] theorem updateRecord_stationNumber (tag : Tag) (f : TrackRecord → TrackRecord) :
    (updateRecord tag f s).stationNumber = s.stationNumber := rfl
@[simp] theorem updateRecord_lineSetup (tag : Tag) (f : TrackRecord → TrackRecord) :
    (updateRecord tag f s).lineSetup = s.lineSetup := rfl
@[simp] theorem updateRecord_setup1 (tag : Tag) (f : TrackRecord → TrackRecord) :
    (updateRecord tag f s).setup1 = s.setup1 := rfl
@[simp] theorem updateRecord_setup2 (tag : Tag) (f : TrackRecord → TrackRecord) :
    (updateRecord tag f s).setup2 = s.setup2 := rfl
@[simp] theorem updateRecord_pairing (tag : Tag) (f : TrackRecord → TrackRecord) :
    (updateRecord tag f s).pairing = s.pairing := rfl
@[simp] theorem updateRecord_fault (tag : Tag) (f : TrackRecord → TrackRecord) :
    (updateRecord tag f s).fault = s.fault := rfl
@[simp] theorem updateRecord_counters (tag : Tag) (f : TrackRecord → TrackRecord) :
    (updateRecord tag f s).counters = s.counters := rfl
@[simp] theorem updateRecord_beacons (tag : Tag) (f : TrackRecord → TrackRecord) :
    (updateRecord tag f s).beacons = s.beacons := rfl
@[simp] theorem updateRecord_timeBase (tag : Tag) (f : TrackRecord → TrackRecord) :
    (updateRecord tag f s).timeBase = s.timeBase := rfl
@[simp] theorem updateRecord_pending (tag : Tag) (f : TrackRecord → TrackRecord) :
    (updateRecord tag f s).pending = s.pending := rfl

/-! ### removeRecord -/

@[simp] theorem removeRecord_rxBuffer (tag : Tag) : (removeRecord tag s).rxBuffer = s.rxBuffer := rfl
@[simp] theorem removeRecord_ctx (tag : Tag) : (removeRecord tag s).ctx = s.ctx := rfl
@[simp] theorem removeRecord_ownSent (tag : Tag) : (removeRecord tag s).ownSent = s.ownSent := rfl
@[simp] theorem removeRecord_belt (tag : Tag) : (removeRecord tag s).belt = s.belt := rfl
@[simp] theorem removeRecord_eyeLatch (tag : Tag) : (removeRecord tag s).eyeLatch = s.eyeLatch := rfl
@[simp] theorem removeRecord_throttled (tag : Tag) : (removeRecord tag s).throttled = s.throttled := rfl
@[simp] theorem removeRecord_throttleSeen (tag : Tag) : (removeRecord tag s).throttleSeen = s.throttleSeen := rfl
@[simp] theorem removeRecord_pendingSweep (tag : Tag) : (removeRecord tag s).pendingSweep = s.pendingSweep := rfl
@[simp] theorem removeRecord_buildA (tag : Tag) : (removeRecord tag s).buildA = s.buildA := rfl
@[simp] theorem removeRecord_buildB (tag : Tag) : (removeRecord tag s).buildB = s.buildB := rfl
@[simp] theorem removeRecord_pick (tag : Tag) : (removeRecord tag s).pick = s.pick := rfl
@[simp] theorem removeRecord_inFlight (tag : Tag) : (removeRecord tag s).inFlight = s.inFlight := rfl
@[simp] theorem removeRecord_seqCounter (tag : Tag) : (removeRecord tag s).seqCounter = s.seqCounter := rfl
@[simp] theorem removeRecord_robotReady (tag : Tag) : (removeRecord tag s).robotReady = s.robotReady := rfl
@[simp] theorem removeRecord_receiver (tag : Tag) : (removeRecord tag s).receiver = s.receiver := rfl
@[simp] theorem removeRecord_urx (tag : Tag) : (removeRecord tag s).urx = s.urx := rfl
@[simp] theorem removeRecord_utx (tag : Tag) : (removeRecord tag s).utx = s.utx := rfl
@[simp] theorem removeRecord_streak (tag : Tag) : (removeRecord tag s).streak = s.streak := rfl
@[simp] theorem removeRecord_cycles (tag : Tag) : (removeRecord tag s).cycles = s.cycles := rfl
@[simp] theorem removeRecord_pauseTimer (tag : Tag) : (removeRecord tag s).pauseTimer = s.pauseTimer := rfl
@[simp] theorem removeRecord_station (tag : Tag) : (removeRecord tag s).station = s.station := rfl
@[simp] theorem removeRecord_stationNumber (tag : Tag) : (removeRecord tag s).stationNumber = s.stationNumber := rfl
@[simp] theorem removeRecord_lineSetup (tag : Tag) : (removeRecord tag s).lineSetup = s.lineSetup := rfl
@[simp] theorem removeRecord_setup1 (tag : Tag) : (removeRecord tag s).setup1 = s.setup1 := rfl
@[simp] theorem removeRecord_setup2 (tag : Tag) : (removeRecord tag s).setup2 = s.setup2 := rfl
@[simp] theorem removeRecord_pairing (tag : Tag) : (removeRecord tag s).pairing = s.pairing := rfl
@[simp] theorem removeRecord_fault (tag : Tag) : (removeRecord tag s).fault = s.fault := rfl
@[simp] theorem removeRecord_counters (tag : Tag) : (removeRecord tag s).counters = s.counters := rfl
@[simp] theorem removeRecord_beacons (tag : Tag) : (removeRecord tag s).beacons = s.beacons := rfl
@[simp] theorem removeRecord_timeBase (tag : Tag) : (removeRecord tag s).timeBase = s.timeBase := rfl
@[simp] theorem removeRecord_pending (tag : Tag) : (removeRecord tag s).pending = s.pending := rfl

/-! ### setPhase -/

@[simp] theorem setPhase_txQueue (tag : Tag) (p : PickPhase) : (setPhase tag p s).txQueue = s.txQueue := rfl
@[simp] theorem setPhase_rxBuffer (tag : Tag) (p : PickPhase) : (setPhase tag p s).rxBuffer = s.rxBuffer := rfl
@[simp] theorem setPhase_ctx (tag : Tag) (p : PickPhase) : (setPhase tag p s).ctx = s.ctx := rfl
@[simp] theorem setPhase_ownSent (tag : Tag) (p : PickPhase) : (setPhase tag p s).ownSent = s.ownSent := rfl
@[simp] theorem setPhase_belt (tag : Tag) (p : PickPhase) : (setPhase tag p s).belt = s.belt := rfl
@[simp] theorem setPhase_positions (tag : Tag) (p : PickPhase) : (setPhase tag p s).positions = s.positions := rfl
@[simp] theorem setPhase_eyeLatch (tag : Tag) (p : PickPhase) : (setPhase tag p s).eyeLatch = s.eyeLatch := rfl
@[simp] theorem setPhase_track (tag : Tag) (p : PickPhase) : (setPhase tag p s).track = s.track := rfl
@[simp] theorem setPhase_throttled (tag : Tag) (p : PickPhase) : (setPhase tag p s).throttled = s.throttled := rfl
@[simp] theorem setPhase_throttleSeen (tag : Tag) (p : PickPhase) :
    (setPhase tag p s).throttleSeen = s.throttleSeen := rfl
@[simp] theorem setPhase_sweep (tag : Tag) (p : PickPhase) : (setPhase tag p s).sweep = s.sweep := rfl
@[simp] theorem setPhase_pendingSweep (tag : Tag) (p : PickPhase) :
    (setPhase tag p s).pendingSweep = s.pendingSweep := rfl
@[simp] theorem setPhase_buildA (tag : Tag) (p : PickPhase) : (setPhase tag p s).buildA = s.buildA := rfl
@[simp] theorem setPhase_buildB (tag : Tag) (p : PickPhase) : (setPhase tag p s).buildB = s.buildB := rfl
@[simp] theorem setPhase_inFlight (tag : Tag) (p : PickPhase) : (setPhase tag p s).inFlight = s.inFlight := rfl
@[simp] theorem setPhase_seqCounter (tag : Tag) (p : PickPhase) : (setPhase tag p s).seqCounter = s.seqCounter := rfl
@[simp] theorem setPhase_robotReady (tag : Tag) (p : PickPhase) : (setPhase tag p s).robotReady = s.robotReady := rfl
@[simp] theorem setPhase_receiver (tag : Tag) (p : PickPhase) : (setPhase tag p s).receiver = s.receiver := rfl
@[simp] theorem setPhase_urx (tag : Tag) (p : PickPhase) : (setPhase tag p s).urx = s.urx := rfl
@[simp] theorem setPhase_utx (tag : Tag) (p : PickPhase) : (setPhase tag p s).utx = s.utx := rfl
@[simp] theorem setPhase_streak (tag : Tag) (p : PickPhase) : (setPhase tag p s).streak = s.streak := rfl
@[simp] theorem setPhase_cycles (tag : Tag) (p : PickPhase) : (setPhase tag p s).cycles = s.cycles := rfl
@[simp] theorem setPhase_pauseTimer (tag : Tag) (p : PickPhase) : (setPhase tag p s).pauseTimer = s.pauseTimer := rfl
@[simp] theorem setPhase_station (tag : Tag) (p : PickPhase) : (setPhase tag p s).station = s.station := rfl
@[simp] theorem setPhase_stationNumber (tag : Tag) (p : PickPhase) :
    (setPhase tag p s).stationNumber = s.stationNumber := rfl
@[simp] theorem setPhase_lineSetup (tag : Tag) (p : PickPhase) : (setPhase tag p s).lineSetup = s.lineSetup := rfl
@[simp] theorem setPhase_setup1 (tag : Tag) (p : PickPhase) : (setPhase tag p s).setup1 = s.setup1 := rfl
@[simp] theorem setPhase_setup2 (tag : Tag) (p : PickPhase) : (setPhase tag p s).setup2 = s.setup2 := rfl
@[simp] theorem setPhase_pairing (tag : Tag) (p : PickPhase) : (setPhase tag p s).pairing = s.pairing := rfl
@[simp] theorem setPhase_fault (tag : Tag) (p : PickPhase) : (setPhase tag p s).fault = s.fault := rfl
@[simp] theorem setPhase_counters (tag : Tag) (p : PickPhase) : (setPhase tag p s).counters = s.counters := rfl
@[simp] theorem setPhase_beacons (tag : Tag) (p : PickPhase) : (setPhase tag p s).beacons = s.beacons := rfl
@[simp] theorem setPhase_timeBase (tag : Tag) (p : PickPhase) : (setPhase tag p s).timeBase = s.timeBase := rfl
@[simp] theorem setPhase_pending (tag : Tag) (p : PickPhase) : (setPhase tag p s).pending = s.pending := rfl

/-! ### setBuild -/

@[simp] theorem setBuild_txQueue (b : BuildId) (v : Build) :
    (setBuild b v s).txQueue = s.txQueue := by cases b <;> rfl
@[simp] theorem setBuild_rxBuffer (b : BuildId) (v : Build) :
    (setBuild b v s).rxBuffer = s.rxBuffer := by cases b <;> rfl
@[simp] theorem setBuild_ctx (b : BuildId) (v : Build) : (setBuild b v s).ctx = s.ctx := by cases b <;> rfl
@[simp] theorem setBuild_ownSent (b : BuildId) (v : Build) :
    (setBuild b v s).ownSent = s.ownSent := by cases b <;> rfl
@[simp] theorem setBuild_belt (b : BuildId) (v : Build) : (setBuild b v s).belt = s.belt := by cases b <;> rfl
@[simp] theorem setBuild_positions (b : BuildId) (v : Build) :
    (setBuild b v s).positions = s.positions := by cases b <;> rfl
@[simp] theorem setBuild_eyeLatch (b : BuildId) (v : Build) :
    (setBuild b v s).eyeLatch = s.eyeLatch := by cases b <;> rfl
@[simp] theorem setBuild_track (b : BuildId) (v : Build) : (setBuild b v s).track = s.track := by cases b <;> rfl
@[simp] theorem setBuild_throttled (b : BuildId) (v : Build) :
    (setBuild b v s).throttled = s.throttled := by cases b <;> rfl
@[simp] theorem setBuild_throttleSeen (b : BuildId) (v : Build) :
    (setBuild b v s).throttleSeen = s.throttleSeen := by cases b <;> rfl
@[simp] theorem setBuild_sweep (b : BuildId) (v : Build) : (setBuild b v s).sweep = s.sweep := by cases b <;> rfl
@[simp] theorem setBuild_pendingSweep (b : BuildId) (v : Build) :
    (setBuild b v s).pendingSweep = s.pendingSweep := by cases b <;> rfl
@[simp] theorem setBuild_pick (b : BuildId) (v : Build) : (setBuild b v s).pick = s.pick := by cases b <;> rfl
@[simp] theorem setBuild_inFlight (b : BuildId) (v : Build) :
    (setBuild b v s).inFlight = s.inFlight := by cases b <;> rfl
@[simp] theorem setBuild_seqCounter (b : BuildId) (v : Build) :
    (setBuild b v s).seqCounter = s.seqCounter := by cases b <;> rfl
@[simp] theorem setBuild_robotReady (b : BuildId) (v : Build) :
    (setBuild b v s).robotReady = s.robotReady := by cases b <;> rfl
@[simp] theorem setBuild_receiver (b : BuildId) (v : Build) :
    (setBuild b v s).receiver = s.receiver := by cases b <;> rfl
@[simp] theorem setBuild_urx (b : BuildId) (v : Build) : (setBuild b v s).urx = s.urx := by cases b <;> rfl
@[simp] theorem setBuild_utx (b : BuildId) (v : Build) : (setBuild b v s).utx = s.utx := by cases b <;> rfl
@[simp] theorem setBuild_streak (b : BuildId) (v : Build) : (setBuild b v s).streak = s.streak := by cases b <;> rfl
@[simp] theorem setBuild_cycles (b : BuildId) (v : Build) : (setBuild b v s).cycles = s.cycles := by cases b <;> rfl
@[simp] theorem setBuild_pauseTimer (b : BuildId) (v : Build) :
    (setBuild b v s).pauseTimer = s.pauseTimer := by cases b <;> rfl
@[simp] theorem setBuild_station (b : BuildId) (v : Build) :
    (setBuild b v s).station = s.station := by cases b <;> rfl
@[simp] theorem setBuild_stationNumber (b : BuildId) (v : Build) :
    (setBuild b v s).stationNumber = s.stationNumber := by cases b <;> rfl
@[simp] theorem setBuild_lineSetup (b : BuildId) (v : Build) :
    (setBuild b v s).lineSetup = s.lineSetup := by cases b <;> rfl
@[simp] theorem setBuild_setup1 (b : BuildId) (v : Build) : (setBuild b v s).setup1 = s.setup1 := by cases b <;> rfl
@[simp] theorem setBuild_setup2 (b : BuildId) (v : Build) : (setBuild b v s).setup2 = s.setup2 := by cases b <;> rfl
@[simp] theorem setBuild_pairing (b : BuildId) (v : Build) :
    (setBuild b v s).pairing = s.pairing := by cases b <;> rfl
@[simp] theorem setBuild_fault (b : BuildId) (v : Build) : (setBuild b v s).fault = s.fault := by cases b <;> rfl
@[simp] theorem setBuild_counters (b : BuildId) (v : Build) :
    (setBuild b v s).counters = s.counters := by cases b <;> rfl
@[simp] theorem setBuild_beacons (b : BuildId) (v : Build) :
    (setBuild b v s).beacons = s.beacons := by cases b <;> rfl
@[simp] theorem setBuild_timeBase (b : BuildId) (v : Build) :
    (setBuild b v s).timeBase = s.timeBase := by cases b <;> rfl
@[simp] theorem setBuild_pending (b : BuildId) (v : Build) :
    (setBuild b v s).pending = s.pending := by cases b <;> rfl

/-! ### updateBuild -/

@[simp] theorem updateBuild_txQueue (b : BuildId) (f : Build → Build) :
    (updateBuild b f s).txQueue = s.txQueue := by cases b <;> rfl
@[simp] theorem updateBuild_rxBuffer (b : BuildId) (f : Build → Build) :
    (updateBuild b f s).rxBuffer = s.rxBuffer := by cases b <;> rfl
@[simp] theorem updateBuild_ctx (b : BuildId) (f : Build → Build) :
    (updateBuild b f s).ctx = s.ctx := by cases b <;> rfl
@[simp] theorem updateBuild_ownSent (b : BuildId) (f : Build → Build) :
    (updateBuild b f s).ownSent = s.ownSent := by cases b <;> rfl
@[simp] theorem updateBuild_belt (b : BuildId) (f : Build → Build) :
    (updateBuild b f s).belt = s.belt := by cases b <;> rfl
@[simp] theorem updateBuild_positions (b : BuildId) (f : Build → Build) :
    (updateBuild b f s).positions = s.positions := by cases b <;> rfl
@[simp] theorem updateBuild_eyeLatch (b : BuildId) (f : Build → Build) :
    (updateBuild b f s).eyeLatch = s.eyeLatch := by cases b <;> rfl
@[simp] theorem updateBuild_track (b : BuildId) (f : Build → Build) :
    (updateBuild b f s).track = s.track := by cases b <;> rfl
@[simp] theorem updateBuild_throttled (b : BuildId) (f : Build → Build) :
    (updateBuild b f s).throttled = s.throttled := by cases b <;> rfl
@[simp] theorem updateBuild_throttleSeen (b : BuildId) (f : Build → Build) :
    (updateBuild b f s).throttleSeen = s.throttleSeen := by cases b <;> rfl
@[simp] theorem updateBuild_sweep (b : BuildId) (f : Build → Build) :
    (updateBuild b f s).sweep = s.sweep := by cases b <;> rfl
@[simp] theorem updateBuild_pendingSweep (b : BuildId) (f : Build → Build) :
    (updateBuild b f s).pendingSweep = s.pendingSweep := by cases b <;> rfl
@[simp] theorem updateBuild_pick (b : BuildId) (f : Build → Build) :
    (updateBuild b f s).pick = s.pick := by cases b <;> rfl
@[simp] theorem updateBuild_inFlight (b : BuildId) (f : Build → Build) :
    (updateBuild b f s).inFlight = s.inFlight := by cases b <;> rfl
@[simp] theorem updateBuild_seqCounter (b : BuildId) (f : Build → Build) :
    (updateBuild b f s).seqCounter = s.seqCounter := by cases b <;> rfl
@[simp] theorem updateBuild_robotReady (b : BuildId) (f : Build → Build) :
    (updateBuild b f s).robotReady = s.robotReady := by cases b <;> rfl
@[simp] theorem updateBuild_receiver (b : BuildId) (f : Build → Build) :
    (updateBuild b f s).receiver = s.receiver := by cases b <;> rfl
@[simp] theorem updateBuild_urx (b : BuildId) (f : Build → Build) :
    (updateBuild b f s).urx = s.urx := by cases b <;> rfl
@[simp] theorem updateBuild_utx (b : BuildId) (f : Build → Build) :
    (updateBuild b f s).utx = s.utx := by cases b <;> rfl
@[simp] theorem updateBuild_streak (b : BuildId) (f : Build → Build) :
    (updateBuild b f s).streak = s.streak := by cases b <;> rfl
@[simp] theorem updateBuild_cycles (b : BuildId) (f : Build → Build) :
    (updateBuild b f s).cycles = s.cycles := by cases b <;> rfl
@[simp] theorem updateBuild_pauseTimer (b : BuildId) (f : Build → Build) :
    (updateBuild b f s).pauseTimer = s.pauseTimer := by cases b <;> rfl
@[simp] theorem updateBuild_station (b : BuildId) (f : Build → Build) :
    (updateBuild b f s).station = s.station := by cases b <;> rfl
@[simp] theorem updateBuild_stationNumber (b : BuildId) (f : Build → Build) :
    (updateBuild b f s).stationNumber = s.stationNumber := by cases b <;> rfl
@[simp] theorem updateBuild_lineSetup (b : BuildId) (f : Build → Build) :
    (updateBuild b f s).lineSetup = s.lineSetup := by cases b <;> rfl
@[simp] theorem updateBuild_setup1 (b : BuildId) (f : Build → Build) :
    (updateBuild b f s).setup1 = s.setup1 := by cases b <;> rfl
@[simp] theorem updateBuild_setup2 (b : BuildId) (f : Build → Build) :
    (updateBuild b f s).setup2 = s.setup2 := by cases b <;> rfl
@[simp] theorem updateBuild_pairing (b : BuildId) (f : Build → Build) :
    (updateBuild b f s).pairing = s.pairing := by cases b <;> rfl
@[simp] theorem updateBuild_fault (b : BuildId) (f : Build → Build) :
    (updateBuild b f s).fault = s.fault := by cases b <;> rfl
@[simp] theorem updateBuild_counters (b : BuildId) (f : Build → Build) :
    (updateBuild b f s).counters = s.counters := by cases b <;> rfl
@[simp] theorem updateBuild_beacons (b : BuildId) (f : Build → Build) :
    (updateBuild b f s).beacons = s.beacons := by cases b <;> rfl
@[simp] theorem updateBuild_timeBase (b : BuildId) (f : Build → Build) :
    (updateBuild b f s).timeBase = s.timeBase := by cases b <;> rfl
@[simp] theorem updateBuild_pending (b : BuildId) (f : Build → Build) :
    (updateBuild b f s).pending = s.pending := by cases b <;> rfl

/-! ### recordFault -/

@[simp] theorem recordFault_txQueue (c : FaultCause) (v : Severity) (b : Option BuildId) (tag : Option Tag) :
    (recordFault c v b tag s).txQueue = s.txQueue := rfl
@[simp] theorem recordFault_rxBuffer (c : FaultCause) (v : Severity) (b : Option BuildId) (tag : Option Tag) :
    (recordFault c v b tag s).rxBuffer = s.rxBuffer := rfl
@[simp] theorem recordFault_ctx (c : FaultCause) (v : Severity) (b : Option BuildId) (tag : Option Tag) :
    (recordFault c v b tag s).ctx = s.ctx := rfl
@[simp] theorem recordFault_ownSent (c : FaultCause) (v : Severity) (b : Option BuildId) (tag : Option Tag) :
    (recordFault c v b tag s).ownSent = s.ownSent := rfl
@[simp] theorem recordFault_belt (c : FaultCause) (v : Severity) (b : Option BuildId) (tag : Option Tag) :
    (recordFault c v b tag s).belt = s.belt := rfl
@[simp] theorem recordFault_positions (c : FaultCause) (v : Severity) (b : Option BuildId) (tag : Option Tag) :
    (recordFault c v b tag s).positions = s.positions := rfl
@[simp] theorem recordFault_eyeLatch (c : FaultCause) (v : Severity) (b : Option BuildId) (tag : Option Tag) :
    (recordFault c v b tag s).eyeLatch = s.eyeLatch := rfl
@[simp] theorem recordFault_track (c : FaultCause) (v : Severity) (b : Option BuildId) (tag : Option Tag) :
    (recordFault c v b tag s).track = s.track := rfl
@[simp] theorem recordFault_throttled (c : FaultCause) (v : Severity) (b : Option BuildId) (tag : Option Tag) :
    (recordFault c v b tag s).throttled = s.throttled := rfl
@[simp] theorem recordFault_throttleSeen (c : FaultCause) (v : Severity) (b : Option BuildId) (tag : Option Tag) :
    (recordFault c v b tag s).throttleSeen = s.throttleSeen := rfl
@[simp] theorem recordFault_sweep (c : FaultCause) (v : Severity) (b : Option BuildId) (tag : Option Tag) :
    (recordFault c v b tag s).sweep = s.sweep := rfl
@[simp] theorem recordFault_pendingSweep (c : FaultCause) (v : Severity) (b : Option BuildId) (tag : Option Tag) :
    (recordFault c v b tag s).pendingSweep = s.pendingSweep := rfl
@[simp] theorem recordFault_buildA (c : FaultCause) (v : Severity) (b : Option BuildId) (tag : Option Tag) :
    (recordFault c v b tag s).buildA = s.buildA := rfl
@[simp] theorem recordFault_buildB (c : FaultCause) (v : Severity) (b : Option BuildId) (tag : Option Tag) :
    (recordFault c v b tag s).buildB = s.buildB := rfl
@[simp] theorem recordFault_pick (c : FaultCause) (v : Severity) (b : Option BuildId) (tag : Option Tag) :
    (recordFault c v b tag s).pick = s.pick := rfl
@[simp] theorem recordFault_inFlight (c : FaultCause) (v : Severity) (b : Option BuildId) (tag : Option Tag) :
    (recordFault c v b tag s).inFlight = s.inFlight := rfl
@[simp] theorem recordFault_seqCounter (c : FaultCause) (v : Severity) (b : Option BuildId) (tag : Option Tag) :
    (recordFault c v b tag s).seqCounter = s.seqCounter := rfl
@[simp] theorem recordFault_robotReady (c : FaultCause) (v : Severity) (b : Option BuildId) (tag : Option Tag) :
    (recordFault c v b tag s).robotReady = s.robotReady := rfl
@[simp] theorem recordFault_receiver (c : FaultCause) (v : Severity) (b : Option BuildId) (tag : Option Tag) :
    (recordFault c v b tag s).receiver = s.receiver := rfl
@[simp] theorem recordFault_urx (c : FaultCause) (v : Severity) (b : Option BuildId) (tag : Option Tag) :
    (recordFault c v b tag s).urx = s.urx := rfl
@[simp] theorem recordFault_utx (c : FaultCause) (v : Severity) (b : Option BuildId) (tag : Option Tag) :
    (recordFault c v b tag s).utx = s.utx := rfl
@[simp] theorem recordFault_streak (c : FaultCause) (v : Severity) (b : Option BuildId) (tag : Option Tag) :
    (recordFault c v b tag s).streak = s.streak := rfl
@[simp] theorem recordFault_cycles (c : FaultCause) (v : Severity) (b : Option BuildId) (tag : Option Tag) :
    (recordFault c v b tag s).cycles = s.cycles := rfl
@[simp] theorem recordFault_pauseTimer (c : FaultCause) (v : Severity) (b : Option BuildId) (tag : Option Tag) :
    (recordFault c v b tag s).pauseTimer = s.pauseTimer := rfl
@[simp] theorem recordFault_station (c : FaultCause) (v : Severity) (b : Option BuildId) (tag : Option Tag) :
    (recordFault c v b tag s).station = s.station := rfl
@[simp] theorem recordFault_stationNumber (c : FaultCause) (v : Severity) (b : Option BuildId) (tag : Option Tag) :
    (recordFault c v b tag s).stationNumber = s.stationNumber := rfl
@[simp] theorem recordFault_lineSetup (c : FaultCause) (v : Severity) (b : Option BuildId) (tag : Option Tag) :
    (recordFault c v b tag s).lineSetup = s.lineSetup := rfl
@[simp] theorem recordFault_setup1 (c : FaultCause) (v : Severity) (b : Option BuildId) (tag : Option Tag) :
    (recordFault c v b tag s).setup1 = s.setup1 := rfl
@[simp] theorem recordFault_setup2 (c : FaultCause) (v : Severity) (b : Option BuildId) (tag : Option Tag) :
    (recordFault c v b tag s).setup2 = s.setup2 := rfl
@[simp] theorem recordFault_pairing (c : FaultCause) (v : Severity) (b : Option BuildId) (tag : Option Tag) :
    (recordFault c v b tag s).pairing = s.pairing := rfl
@[simp] theorem recordFault_counters (c : FaultCause) (v : Severity) (b : Option BuildId) (tag : Option Tag) :
    (recordFault c v b tag s).counters = s.counters := rfl
@[simp] theorem recordFault_beacons (c : FaultCause) (v : Severity) (b : Option BuildId) (tag : Option Tag) :
    (recordFault c v b tag s).beacons = s.beacons := rfl
@[simp] theorem recordFault_timeBase (c : FaultCause) (v : Severity) (b : Option BuildId) (tag : Option Tag) :
    (recordFault c v b tag s).timeBase = s.timeBase := rfl
@[simp] theorem recordFault_pending (c : FaultCause) (v : Severity) (b : Option BuildId) (tag : Option Tag) :
    (recordFault c v b tag s).pending = s.pending := rfl

/-! ### runTo -/

@[simp] theorem runTo_txQueue (start : Millis) (n : Nat) : (runTo start n s).txQueue = s.txQueue := rfl
@[simp] theorem runTo_rxBuffer (start : Millis) (n : Nat) : (runTo start n s).rxBuffer = s.rxBuffer := rfl
@[simp] theorem runTo_ctx (start : Millis) (n : Nat) : (runTo start n s).ctx = s.ctx := rfl
@[simp] theorem runTo_ownSent (start : Millis) (n : Nat) : (runTo start n s).ownSent = s.ownSent := rfl
@[simp] theorem runTo_belt (start : Millis) (n : Nat) : (runTo start n s).belt = s.belt := rfl
@[simp] theorem runTo_positions (start : Millis) (n : Nat) : (runTo start n s).positions = s.positions := rfl
@[simp] theorem runTo_eyeLatch (start : Millis) (n : Nat) : (runTo start n s).eyeLatch = s.eyeLatch := rfl
@[simp] theorem runTo_track (start : Millis) (n : Nat) : (runTo start n s).track = s.track := rfl
@[simp] theorem runTo_throttled (start : Millis) (n : Nat) : (runTo start n s).throttled = s.throttled := rfl
@[simp] theorem runTo_throttleSeen (start : Millis) (n : Nat) : (runTo start n s).throttleSeen = s.throttleSeen := rfl
@[simp] theorem runTo_sweep (start : Millis) (n : Nat) : (runTo start n s).sweep = s.sweep := rfl
@[simp] theorem runTo_pendingSweep (start : Millis) (n : Nat) : (runTo start n s).pendingSweep = s.pendingSweep := rfl
@[simp] theorem runTo_buildA (start : Millis) (n : Nat) : (runTo start n s).buildA = s.buildA := rfl
@[simp] theorem runTo_buildB (start : Millis) (n : Nat) : (runTo start n s).buildB = s.buildB := rfl
@[simp] theorem runTo_pick (start : Millis) (n : Nat) : (runTo start n s).pick = s.pick := rfl
@[simp] theorem runTo_inFlight (start : Millis) (n : Nat) : (runTo start n s).inFlight = s.inFlight := rfl
@[simp] theorem runTo_seqCounter (start : Millis) (n : Nat) : (runTo start n s).seqCounter = s.seqCounter := rfl
@[simp] theorem runTo_robotReady (start : Millis) (n : Nat) : (runTo start n s).robotReady = s.robotReady := rfl
@[simp] theorem runTo_receiver (start : Millis) (n : Nat) : (runTo start n s).receiver = s.receiver := rfl
@[simp] theorem runTo_urx (start : Millis) (n : Nat) : (runTo start n s).urx = s.urx := rfl
@[simp] theorem runTo_utx (start : Millis) (n : Nat) : (runTo start n s).utx = s.utx := rfl
@[simp] theorem runTo_streak (start : Millis) (n : Nat) : (runTo start n s).streak = s.streak := rfl
@[simp] theorem runTo_cycles (start : Millis) (n : Nat) : (runTo start n s).cycles = s.cycles := rfl
@[simp] theorem runTo_pauseTimer (start : Millis) (n : Nat) : (runTo start n s).pauseTimer = s.pauseTimer := rfl
@[simp] theorem runTo_station (start : Millis) (n : Nat) : (runTo start n s).station = s.station := rfl
@[simp] theorem runTo_stationNumber (start : Millis) (n : Nat) :
    (runTo start n s).stationNumber = s.stationNumber := rfl
@[simp] theorem runTo_lineSetup (start : Millis) (n : Nat) : (runTo start n s).lineSetup = s.lineSetup := rfl
@[simp] theorem runTo_setup1 (start : Millis) (n : Nat) : (runTo start n s).setup1 = s.setup1 := rfl
@[simp] theorem runTo_setup2 (start : Millis) (n : Nat) : (runTo start n s).setup2 = s.setup2 := rfl
@[simp] theorem runTo_pairing (start : Millis) (n : Nat) : (runTo start n s).pairing = s.pairing := rfl
@[simp] theorem runTo_fault (start : Millis) (n : Nat) : (runTo start n s).fault = s.fault := rfl
@[simp] theorem runTo_counters (start : Millis) (n : Nat) : (runTo start n s).counters = s.counters := rfl
@[simp] theorem runTo_beacons (start : Millis) (n : Nat) : (runTo start n s).beacons = s.beacons := rfl
@[simp] theorem runTo_pending (start : Millis) (n : Nat) : (runTo start n s).pending = s.pending := rfl

/-! ### throttleAtJoin -/

@[simp] theorem throttleAtJoin_txQueue :
    (throttleAtJoin s).txQueue = s.txQueue := by unfold throttleAtJoin; split <;> rfl
@[simp] theorem throttleAtJoin_rxBuffer :
    (throttleAtJoin s).rxBuffer = s.rxBuffer := by unfold throttleAtJoin; split <;> rfl
@[simp] theorem throttleAtJoin_ctx : (throttleAtJoin s).ctx = s.ctx := by unfold throttleAtJoin; split <;> rfl
@[simp] theorem throttleAtJoin_ownSent :
    (throttleAtJoin s).ownSent = s.ownSent := by unfold throttleAtJoin; split <;> rfl
@[simp] theorem throttleAtJoin_belt : (throttleAtJoin s).belt = s.belt := by unfold throttleAtJoin; split <;> rfl
@[simp] theorem throttleAtJoin_positions :
    (throttleAtJoin s).positions = s.positions := by unfold throttleAtJoin; split <;> rfl
@[simp] theorem throttleAtJoin_eyeLatch :
    (throttleAtJoin s).eyeLatch = s.eyeLatch := by unfold throttleAtJoin; split <;> rfl
@[simp] theorem throttleAtJoin_track : (throttleAtJoin s).track = s.track := by unfold throttleAtJoin; split <;> rfl
@[simp] theorem throttleAtJoin_sweep : (throttleAtJoin s).sweep = s.sweep := by unfold throttleAtJoin; split <;> rfl
@[simp] theorem throttleAtJoin_pendingSweep :
    (throttleAtJoin s).pendingSweep = s.pendingSweep := by unfold throttleAtJoin; split <;> rfl
@[simp] theorem throttleAtJoin_buildA :
    (throttleAtJoin s).buildA = s.buildA := by unfold throttleAtJoin; split <;> rfl
@[simp] theorem throttleAtJoin_buildB :
    (throttleAtJoin s).buildB = s.buildB := by unfold throttleAtJoin; split <;> rfl
@[simp] theorem throttleAtJoin_pick : (throttleAtJoin s).pick = s.pick := by unfold throttleAtJoin; split <;> rfl
@[simp] theorem throttleAtJoin_inFlight :
    (throttleAtJoin s).inFlight = s.inFlight := by unfold throttleAtJoin; split <;> rfl
@[simp] theorem throttleAtJoin_seqCounter :
    (throttleAtJoin s).seqCounter = s.seqCounter := by unfold throttleAtJoin; split <;> rfl
@[simp] theorem throttleAtJoin_robotReady :
    (throttleAtJoin s).robotReady = s.robotReady := by unfold throttleAtJoin; split <;> rfl
@[simp] theorem throttleAtJoin_receiver :
    (throttleAtJoin s).receiver = s.receiver := by unfold throttleAtJoin; split <;> rfl
@[simp] theorem throttleAtJoin_urx : (throttleAtJoin s).urx = s.urx := by unfold throttleAtJoin; split <;> rfl
@[simp] theorem throttleAtJoin_utx : (throttleAtJoin s).utx = s.utx := by unfold throttleAtJoin; split <;> rfl
@[simp] theorem throttleAtJoin_streak :
    (throttleAtJoin s).streak = s.streak := by unfold throttleAtJoin; split <;> rfl
@[simp] theorem throttleAtJoin_cycles :
    (throttleAtJoin s).cycles = s.cycles := by unfold throttleAtJoin; split <;> rfl
@[simp] theorem throttleAtJoin_pauseTimer :
    (throttleAtJoin s).pauseTimer = s.pauseTimer := by unfold throttleAtJoin; split <;> rfl
@[simp] theorem throttleAtJoin_station :
    (throttleAtJoin s).station = s.station := by unfold throttleAtJoin; split <;> rfl
@[simp] theorem throttleAtJoin_stationNumber :
    (throttleAtJoin s).stationNumber = s.stationNumber := by unfold throttleAtJoin; split <;> rfl
@[simp] theorem throttleAtJoin_lineSetup :
    (throttleAtJoin s).lineSetup = s.lineSetup := by unfold throttleAtJoin; split <;> rfl
@[simp] theorem throttleAtJoin_setup1 :
    (throttleAtJoin s).setup1 = s.setup1 := by unfold throttleAtJoin; split <;> rfl
@[simp] theorem throttleAtJoin_setup2 :
    (throttleAtJoin s).setup2 = s.setup2 := by unfold throttleAtJoin; split <;> rfl
@[simp] theorem throttleAtJoin_pairing :
    (throttleAtJoin s).pairing = s.pairing := by unfold throttleAtJoin; split <;> rfl
@[simp] theorem throttleAtJoin_fault : (throttleAtJoin s).fault = s.fault := by unfold throttleAtJoin; split <;> rfl
@[simp] theorem throttleAtJoin_counters :
    (throttleAtJoin s).counters = s.counters := by unfold throttleAtJoin; split <;> rfl
@[simp] theorem throttleAtJoin_beacons :
    (throttleAtJoin s).beacons = s.beacons := by unfold throttleAtJoin; split <;> rfl
@[simp] theorem throttleAtJoin_timeBase :
    (throttleAtJoin s).timeBase = s.timeBase := by unfold throttleAtJoin; split <;> rfl
@[simp] theorem throttleAtJoin_pending :
    (throttleAtJoin s).pending = s.pending := by unfold throttleAtJoin; split <;> rfl

/-! ### throttleAtLeave -/

@[simp] theorem throttleAtLeave_txQueue :
    (throttleAtLeave s).txQueue = s.txQueue := by unfold throttleAtLeave; split <;> rfl
@[simp] theorem throttleAtLeave_rxBuffer :
    (throttleAtLeave s).rxBuffer = s.rxBuffer := by unfold throttleAtLeave; split <;> rfl
@[simp] theorem throttleAtLeave_ctx : (throttleAtLeave s).ctx = s.ctx := by unfold throttleAtLeave; split <;> rfl
@[simp] theorem throttleAtLeave_ownSent :
    (throttleAtLeave s).ownSent = s.ownSent := by unfold throttleAtLeave; split <;> rfl
@[simp] theorem throttleAtLeave_belt : (throttleAtLeave s).belt = s.belt := by unfold throttleAtLeave; split <;> rfl
@[simp] theorem throttleAtLeave_positions :
    (throttleAtLeave s).positions = s.positions := by unfold throttleAtLeave; split <;> rfl
@[simp] theorem throttleAtLeave_eyeLatch :
    (throttleAtLeave s).eyeLatch = s.eyeLatch := by unfold throttleAtLeave; split <;> rfl
@[simp] theorem throttleAtLeave_track :
    (throttleAtLeave s).track = s.track := by unfold throttleAtLeave; split <;> rfl
@[simp] theorem throttleAtLeave_throttleSeen :
    (throttleAtLeave s).throttleSeen = s.throttleSeen := by unfold throttleAtLeave; split <;> rfl
@[simp] theorem throttleAtLeave_buildA :
    (throttleAtLeave s).buildA = s.buildA := by unfold throttleAtLeave; split <;> rfl
@[simp] theorem throttleAtLeave_buildB :
    (throttleAtLeave s).buildB = s.buildB := by unfold throttleAtLeave; split <;> rfl
@[simp] theorem throttleAtLeave_pick : (throttleAtLeave s).pick = s.pick := by unfold throttleAtLeave; split <;> rfl
@[simp] theorem throttleAtLeave_inFlight :
    (throttleAtLeave s).inFlight = s.inFlight := by unfold throttleAtLeave; split <;> rfl
@[simp] theorem throttleAtLeave_seqCounter :
    (throttleAtLeave s).seqCounter = s.seqCounter := by unfold throttleAtLeave; split <;> rfl
@[simp] theorem throttleAtLeave_robotReady :
    (throttleAtLeave s).robotReady = s.robotReady := by unfold throttleAtLeave; split <;> rfl
@[simp] theorem throttleAtLeave_receiver :
    (throttleAtLeave s).receiver = s.receiver := by unfold throttleAtLeave; split <;> rfl
@[simp] theorem throttleAtLeave_urx : (throttleAtLeave s).urx = s.urx := by unfold throttleAtLeave; split <;> rfl
@[simp] theorem throttleAtLeave_utx : (throttleAtLeave s).utx = s.utx := by unfold throttleAtLeave; split <;> rfl
@[simp] theorem throttleAtLeave_streak :
    (throttleAtLeave s).streak = s.streak := by unfold throttleAtLeave; split <;> rfl
@[simp] theorem throttleAtLeave_cycles :
    (throttleAtLeave s).cycles = s.cycles := by unfold throttleAtLeave; split <;> rfl
@[simp] theorem throttleAtLeave_pauseTimer :
    (throttleAtLeave s).pauseTimer = s.pauseTimer := by unfold throttleAtLeave; split <;> rfl
@[simp] theorem throttleAtLeave_station :
    (throttleAtLeave s).station = s.station := by unfold throttleAtLeave; split <;> rfl
@[simp] theorem throttleAtLeave_stationNumber :
    (throttleAtLeave s).stationNumber = s.stationNumber := by unfold throttleAtLeave; split <;> rfl
@[simp] theorem throttleAtLeave_lineSetup :
    (throttleAtLeave s).lineSetup = s.lineSetup := by unfold throttleAtLeave; split <;> rfl
@[simp] theorem throttleAtLeave_setup1 :
    (throttleAtLeave s).setup1 = s.setup1 := by unfold throttleAtLeave; split <;> rfl
@[simp] theorem throttleAtLeave_setup2 :
    (throttleAtLeave s).setup2 = s.setup2 := by unfold throttleAtLeave; split <;> rfl
@[simp] theorem throttleAtLeave_pairing :
    (throttleAtLeave s).pairing = s.pairing := by unfold throttleAtLeave; split <;> rfl
@[simp] theorem throttleAtLeave_fault :
    (throttleAtLeave s).fault = s.fault := by unfold throttleAtLeave; split <;> rfl
@[simp] theorem throttleAtLeave_counters :
    (throttleAtLeave s).counters = s.counters := by unfold throttleAtLeave; split <;> rfl
@[simp] theorem throttleAtLeave_beacons :
    (throttleAtLeave s).beacons = s.beacons := by unfold throttleAtLeave; split <;> rfl
@[simp] theorem throttleAtLeave_timeBase :
    (throttleAtLeave s).timeBase = s.timeBase := by unfold throttleAtLeave; split <;> rfl
@[simp] theorem throttleAtLeave_pending :
    (throttleAtLeave s).pending = s.pending := by unfold throttleAtLeave; split <;> rfl

/-! ### joinPick -/

@[simp] theorem joinPick_txQueue (tag : Tag) (b : BuildId) (st : Count) :
    (joinPick tag b st s).txQueue = s.txQueue := by simp [joinPick]
@[simp] theorem joinPick_rxBuffer (tag : Tag) (b : BuildId) (st : Count) :
    (joinPick tag b st s).rxBuffer = s.rxBuffer := by simp [joinPick]
@[simp] theorem joinPick_ctx (tag : Tag) (b : BuildId) (st : Count) :
    (joinPick tag b st s).ctx = s.ctx := by simp [joinPick]
@[simp] theorem joinPick_ownSent (tag : Tag) (b : BuildId) (st : Count) :
    (joinPick tag b st s).ownSent = s.ownSent := by simp [joinPick]
@[simp] theorem joinPick_belt (tag : Tag) (b : BuildId) (st : Count) :
    (joinPick tag b st s).belt = s.belt := by simp [joinPick]
@[simp] theorem joinPick_eyeLatch (tag : Tag) (b : BuildId) (st : Count) :
    (joinPick tag b st s).eyeLatch = s.eyeLatch := by simp [joinPick]
@[simp] theorem joinPick_track (tag : Tag) (b : BuildId) (st : Count) :
    (joinPick tag b st s).track = s.track := by simp [joinPick]
@[simp] theorem joinPick_sweep (tag : Tag) (b : BuildId) (st : Count) :
    (joinPick tag b st s).sweep = s.sweep := by simp [joinPick]
@[simp] theorem joinPick_pendingSweep (tag : Tag) (b : BuildId) (st : Count) :
    (joinPick tag b st s).pendingSweep = s.pendingSweep := by simp [joinPick]
@[simp] theorem joinPick_buildA (tag : Tag) (b : BuildId) (st : Count) :
    (joinPick tag b st s).buildA = s.buildA := by simp [joinPick]
@[simp] theorem joinPick_buildB (tag : Tag) (b : BuildId) (st : Count) :
    (joinPick tag b st s).buildB = s.buildB := by simp [joinPick]
@[simp] theorem joinPick_inFlight (tag : Tag) (b : BuildId) (st : Count) :
    (joinPick tag b st s).inFlight = s.inFlight := by simp [joinPick]
@[simp] theorem joinPick_seqCounter (tag : Tag) (b : BuildId) (st : Count) :
    (joinPick tag b st s).seqCounter = s.seqCounter := by simp [joinPick]
@[simp] theorem joinPick_robotReady (tag : Tag) (b : BuildId) (st : Count) :
    (joinPick tag b st s).robotReady = s.robotReady := by simp [joinPick]
@[simp] theorem joinPick_receiver (tag : Tag) (b : BuildId) (st : Count) :
    (joinPick tag b st s).receiver = s.receiver := by simp [joinPick]
@[simp] theorem joinPick_urx (tag : Tag) (b : BuildId) (st : Count) :
    (joinPick tag b st s).urx = s.urx := by simp [joinPick]
@[simp] theorem joinPick_utx (tag : Tag) (b : BuildId) (st : Count) :
    (joinPick tag b st s).utx = s.utx := by simp [joinPick]
@[simp] theorem joinPick_streak (tag : Tag) (b : BuildId) (st : Count) :
    (joinPick tag b st s).streak = s.streak := by simp [joinPick]
@[simp] theorem joinPick_cycles (tag : Tag) (b : BuildId) (st : Count) :
    (joinPick tag b st s).cycles = s.cycles := by simp [joinPick]
@[simp] theorem joinPick_pauseTimer (tag : Tag) (b : BuildId) (st : Count) :
    (joinPick tag b st s).pauseTimer = s.pauseTimer := by simp [joinPick]
@[simp] theorem joinPick_station (tag : Tag) (b : BuildId) (st : Count) :
    (joinPick tag b st s).station = s.station := by simp [joinPick]
@[simp] theorem joinPick_stationNumber (tag : Tag) (b : BuildId) (st : Count) :
    (joinPick tag b st s).stationNumber = s.stationNumber := by simp [joinPick]
@[simp] theorem joinPick_lineSetup (tag : Tag) (b : BuildId) (st : Count) :
    (joinPick tag b st s).lineSetup = s.lineSetup := by simp [joinPick]
@[simp] theorem joinPick_setup1 (tag : Tag) (b : BuildId) (st : Count) :
    (joinPick tag b st s).setup1 = s.setup1 := by simp [joinPick]
@[simp] theorem joinPick_setup2 (tag : Tag) (b : BuildId) (st : Count) :
    (joinPick tag b st s).setup2 = s.setup2 := by simp [joinPick]
@[simp] theorem joinPick_pairing (tag : Tag) (b : BuildId) (st : Count) :
    (joinPick tag b st s).pairing = s.pairing := by simp [joinPick]
@[simp] theorem joinPick_fault (tag : Tag) (b : BuildId) (st : Count) :
    (joinPick tag b st s).fault = s.fault := by simp [joinPick]
@[simp] theorem joinPick_counters (tag : Tag) (b : BuildId) (st : Count) :
    (joinPick tag b st s).counters = s.counters := by simp [joinPick]
@[simp] theorem joinPick_beacons (tag : Tag) (b : BuildId) (st : Count) :
    (joinPick tag b st s).beacons = s.beacons := by simp [joinPick]
@[simp] theorem joinPick_timeBase (tag : Tag) (b : BuildId) (st : Count) :
    (joinPick tag b st s).timeBase = s.timeBase := by simp [joinPick]
@[simp] theorem joinPick_pending (tag : Tag) (b : BuildId) (st : Count) :
    (joinPick tag b st s).pending = s.pending := by simp [joinPick]

/-! ### leavePick -/

@[simp] theorem leavePick_txQueue (tag : Tag) :
    (leavePick tag s).txQueue = s.txQueue := by unfold leavePick; split <;> simp
@[simp] theorem leavePick_rxBuffer (tag : Tag) :
    (leavePick tag s).rxBuffer = s.rxBuffer := by unfold leavePick; split <;> simp
@[simp] theorem leavePick_ctx (tag : Tag) : (leavePick tag s).ctx = s.ctx := by unfold leavePick; split <;> simp
@[simp] theorem leavePick_ownSent (tag : Tag) :
    (leavePick tag s).ownSent = s.ownSent := by unfold leavePick; split <;> simp
@[simp] theorem leavePick_belt (tag : Tag) : (leavePick tag s).belt = s.belt := by unfold leavePick; split <;> simp
@[simp] theorem leavePick_eyeLatch (tag : Tag) :
    (leavePick tag s).eyeLatch = s.eyeLatch := by unfold leavePick; split <;> simp
@[simp] theorem leavePick_track (tag : Tag) : (leavePick tag s).track = s.track := by unfold leavePick; split <;> simp
@[simp] theorem leavePick_throttleSeen (tag : Tag) :
    (leavePick tag s).throttleSeen = s.throttleSeen := by unfold leavePick; split <;> simp
@[simp] theorem leavePick_buildA (tag : Tag) :
    (leavePick tag s).buildA = s.buildA := by unfold leavePick; split <;> simp
@[simp] theorem leavePick_buildB (tag : Tag) :
    (leavePick tag s).buildB = s.buildB := by unfold leavePick; split <;> simp
@[simp] theorem leavePick_inFlight (tag : Tag) :
    (leavePick tag s).inFlight = s.inFlight := by unfold leavePick; split <;> simp
@[simp] theorem leavePick_seqCounter (tag : Tag) :
    (leavePick tag s).seqCounter = s.seqCounter := by unfold leavePick; split <;> simp
@[simp] theorem leavePick_robotReady (tag : Tag) :
    (leavePick tag s).robotReady = s.robotReady := by unfold leavePick; split <;> simp
@[simp] theorem leavePick_receiver (tag : Tag) :
    (leavePick tag s).receiver = s.receiver := by unfold leavePick; split <;> simp
@[simp] theorem leavePick_urx (tag : Tag) : (leavePick tag s).urx = s.urx := by unfold leavePick; split <;> simp
@[simp] theorem leavePick_utx (tag : Tag) : (leavePick tag s).utx = s.utx := by unfold leavePick; split <;> simp
@[simp] theorem leavePick_streak (tag : Tag) :
    (leavePick tag s).streak = s.streak := by unfold leavePick; split <;> simp
@[simp] theorem leavePick_cycles (tag : Tag) :
    (leavePick tag s).cycles = s.cycles := by unfold leavePick; split <;> simp
@[simp] theorem leavePick_pauseTimer (tag : Tag) :
    (leavePick tag s).pauseTimer = s.pauseTimer := by unfold leavePick; split <;> simp
@[simp] theorem leavePick_station (tag : Tag) :
    (leavePick tag s).station = s.station := by unfold leavePick; split <;> simp
@[simp] theorem leavePick_stationNumber (tag : Tag) :
    (leavePick tag s).stationNumber = s.stationNumber := by unfold leavePick; split <;> simp
@[simp] theorem leavePick_lineSetup (tag : Tag) :
    (leavePick tag s).lineSetup = s.lineSetup := by unfold leavePick; split <;> simp
@[simp] theorem leavePick_setup1 (tag : Tag) :
    (leavePick tag s).setup1 = s.setup1 := by unfold leavePick; split <;> simp
@[simp] theorem leavePick_setup2 (tag : Tag) :
    (leavePick tag s).setup2 = s.setup2 := by unfold leavePick; split <;> simp
@[simp] theorem leavePick_pairing (tag : Tag) :
    (leavePick tag s).pairing = s.pairing := by unfold leavePick; split <;> simp
@[simp] theorem leavePick_fault (tag : Tag) : (leavePick tag s).fault = s.fault := by unfold leavePick; split <;> simp
@[simp] theorem leavePick_counters (tag : Tag) :
    (leavePick tag s).counters = s.counters := by unfold leavePick; split <;> simp
@[simp] theorem leavePick_beacons (tag : Tag) :
    (leavePick tag s).beacons = s.beacons := by unfold leavePick; split <;> simp
@[simp] theorem leavePick_timeBase (tag : Tag) :
    (leavePick tag s).timeBase = s.timeBase := by unfold leavePick; split <;> simp
@[simp] theorem leavePick_pending (tag : Tag) :
    (leavePick tag s).pending = s.pending := by unfold leavePick; split <;> simp

/-! ### freePort -/

@[simp] theorem freePort_txQueue : (freePort s).txQueue = s.txQueue := rfl
@[simp] theorem freePort_rxBuffer : (freePort s).rxBuffer = s.rxBuffer := rfl
@[simp] theorem freePort_ctx : (freePort s).ctx = s.ctx := rfl
@[simp] theorem freePort_ownSent : (freePort s).ownSent = s.ownSent := rfl
@[simp] theorem freePort_belt : (freePort s).belt = s.belt := rfl
@[simp] theorem freePort_positions : (freePort s).positions = s.positions := rfl
@[simp] theorem freePort_eyeLatch : (freePort s).eyeLatch = s.eyeLatch := rfl
@[simp] theorem freePort_track : (freePort s).track = s.track := rfl
@[simp] theorem freePort_throttled : (freePort s).throttled = s.throttled := rfl
@[simp] theorem freePort_throttleSeen : (freePort s).throttleSeen = s.throttleSeen := rfl
@[simp] theorem freePort_sweep : (freePort s).sweep = s.sweep := rfl
@[simp] theorem freePort_pendingSweep : (freePort s).pendingSweep = s.pendingSweep := rfl
@[simp] theorem freePort_buildA : (freePort s).buildA = s.buildA := rfl
@[simp] theorem freePort_buildB : (freePort s).buildB = s.buildB := rfl
@[simp] theorem freePort_pick : (freePort s).pick = s.pick := rfl
@[simp] theorem freePort_seqCounter : (freePort s).seqCounter = s.seqCounter := rfl
@[simp] theorem freePort_robotReady : (freePort s).robotReady = s.robotReady := rfl
@[simp] theorem freePort_receiver : (freePort s).receiver = s.receiver := rfl
@[simp] theorem freePort_urx : (freePort s).urx = s.urx := rfl
@[simp] theorem freePort_utx : (freePort s).utx = s.utx := rfl
@[simp] theorem freePort_streak : (freePort s).streak = s.streak := rfl
@[simp] theorem freePort_cycles : (freePort s).cycles = s.cycles := rfl
@[simp] theorem freePort_pauseTimer : (freePort s).pauseTimer = s.pauseTimer := rfl
@[simp] theorem freePort_station : (freePort s).station = s.station := rfl
@[simp] theorem freePort_stationNumber : (freePort s).stationNumber = s.stationNumber := rfl
@[simp] theorem freePort_lineSetup : (freePort s).lineSetup = s.lineSetup := rfl
@[simp] theorem freePort_setup1 : (freePort s).setup1 = s.setup1 := rfl
@[simp] theorem freePort_setup2 : (freePort s).setup2 = s.setup2 := rfl
@[simp] theorem freePort_pairing : (freePort s).pairing = s.pairing := rfl
@[simp] theorem freePort_fault : (freePort s).fault = s.fault := rfl
@[simp] theorem freePort_counters : (freePort s).counters = s.counters := rfl
@[simp] theorem freePort_beacons : (freePort s).beacons = s.beacons := rfl
@[simp] theorem freePort_timeBase : (freePort s).timeBase = s.timeBase := rfl
@[simp] theorem freePort_pending : (freePort s).pending = s.pending := rfl

/-! ### sendRequest -/

@[simp] theorem sendRequest_txQueue (k : OpKind) (b : BuildId) (tag : Option Tag) (p : List Byte) :
    (sendRequest k b tag p s).txQueue = s.txQueue := rfl
@[simp] theorem sendRequest_rxBuffer (k : OpKind) (b : BuildId) (tag : Option Tag) (p : List Byte) :
    (sendRequest k b tag p s).rxBuffer = s.rxBuffer := rfl
@[simp] theorem sendRequest_ctx (k : OpKind) (b : BuildId) (tag : Option Tag) (p : List Byte) :
    (sendRequest k b tag p s).ctx = s.ctx := rfl
@[simp] theorem sendRequest_ownSent (k : OpKind) (b : BuildId) (tag : Option Tag) (p : List Byte) :
    (sendRequest k b tag p s).ownSent = s.ownSent := rfl
@[simp] theorem sendRequest_belt (k : OpKind) (b : BuildId) (tag : Option Tag) (p : List Byte) :
    (sendRequest k b tag p s).belt = s.belt := rfl
@[simp] theorem sendRequest_positions (k : OpKind) (b : BuildId) (tag : Option Tag) (p : List Byte) :
    (sendRequest k b tag p s).positions = s.positions := rfl
@[simp] theorem sendRequest_eyeLatch (k : OpKind) (b : BuildId) (tag : Option Tag) (p : List Byte) :
    (sendRequest k b tag p s).eyeLatch = s.eyeLatch := rfl
@[simp] theorem sendRequest_track (k : OpKind) (b : BuildId) (tag : Option Tag) (p : List Byte) :
    (sendRequest k b tag p s).track = s.track := rfl
@[simp] theorem sendRequest_throttled (k : OpKind) (b : BuildId) (tag : Option Tag) (p : List Byte) :
    (sendRequest k b tag p s).throttled = s.throttled := rfl
@[simp] theorem sendRequest_throttleSeen (k : OpKind) (b : BuildId) (tag : Option Tag) (p : List Byte) :
    (sendRequest k b tag p s).throttleSeen = s.throttleSeen := rfl
@[simp] theorem sendRequest_sweep (k : OpKind) (b : BuildId) (tag : Option Tag) (p : List Byte) :
    (sendRequest k b tag p s).sweep = s.sweep := rfl
@[simp] theorem sendRequest_pendingSweep (k : OpKind) (b : BuildId) (tag : Option Tag) (p : List Byte) :
    (sendRequest k b tag p s).pendingSweep = s.pendingSweep := rfl
@[simp] theorem sendRequest_buildA (k : OpKind) (b : BuildId) (tag : Option Tag) (p : List Byte) :
    (sendRequest k b tag p s).buildA = s.buildA := rfl
@[simp] theorem sendRequest_buildB (k : OpKind) (b : BuildId) (tag : Option Tag) (p : List Byte) :
    (sendRequest k b tag p s).buildB = s.buildB := rfl
@[simp] theorem sendRequest_pick (k : OpKind) (b : BuildId) (tag : Option Tag) (p : List Byte) :
    (sendRequest k b tag p s).pick = s.pick := rfl
@[simp] theorem sendRequest_robotReady (k : OpKind) (b : BuildId) (tag : Option Tag) (p : List Byte) :
    (sendRequest k b tag p s).robotReady = s.robotReady := rfl
@[simp] theorem sendRequest_receiver (k : OpKind) (b : BuildId) (tag : Option Tag) (p : List Byte) :
    (sendRequest k b tag p s).receiver = s.receiver := rfl
@[simp] theorem sendRequest_urx (k : OpKind) (b : BuildId) (tag : Option Tag) (p : List Byte) :
    (sendRequest k b tag p s).urx = s.urx := rfl
@[simp] theorem sendRequest_streak (k : OpKind) (b : BuildId) (tag : Option Tag) (p : List Byte) :
    (sendRequest k b tag p s).streak = s.streak := rfl
@[simp] theorem sendRequest_cycles (k : OpKind) (b : BuildId) (tag : Option Tag) (p : List Byte) :
    (sendRequest k b tag p s).cycles = s.cycles := rfl
@[simp] theorem sendRequest_pauseTimer (k : OpKind) (b : BuildId) (tag : Option Tag) (p : List Byte) :
    (sendRequest k b tag p s).pauseTimer = s.pauseTimer := rfl
@[simp] theorem sendRequest_station (k : OpKind) (b : BuildId) (tag : Option Tag) (p : List Byte) :
    (sendRequest k b tag p s).station = s.station := rfl
@[simp] theorem sendRequest_stationNumber (k : OpKind) (b : BuildId) (tag : Option Tag) (p : List Byte) :
    (sendRequest k b tag p s).stationNumber = s.stationNumber := rfl
@[simp] theorem sendRequest_lineSetup (k : OpKind) (b : BuildId) (tag : Option Tag) (p : List Byte) :
    (sendRequest k b tag p s).lineSetup = s.lineSetup := rfl
@[simp] theorem sendRequest_setup1 (k : OpKind) (b : BuildId) (tag : Option Tag) (p : List Byte) :
    (sendRequest k b tag p s).setup1 = s.setup1 := rfl
@[simp] theorem sendRequest_setup2 (k : OpKind) (b : BuildId) (tag : Option Tag) (p : List Byte) :
    (sendRequest k b tag p s).setup2 = s.setup2 := rfl
@[simp] theorem sendRequest_pairing (k : OpKind) (b : BuildId) (tag : Option Tag) (p : List Byte) :
    (sendRequest k b tag p s).pairing = s.pairing := rfl
@[simp] theorem sendRequest_fault (k : OpKind) (b : BuildId) (tag : Option Tag) (p : List Byte) :
    (sendRequest k b tag p s).fault = s.fault := rfl
@[simp] theorem sendRequest_counters (k : OpKind) (b : BuildId) (tag : Option Tag) (p : List Byte) :
    (sendRequest k b tag p s).counters = s.counters := rfl
@[simp] theorem sendRequest_beacons (k : OpKind) (b : BuildId) (tag : Option Tag) (p : List Byte) :
    (sendRequest k b tag p s).beacons = s.beacons := rfl
@[simp] theorem sendRequest_timeBase (k : OpKind) (b : BuildId) (tag : Option Tag) (p : List Byte) :
    (sendRequest k b tag p s).timeBase = s.timeBase := rfl
@[simp] theorem sendRequest_pending (k : OpKind) (b : BuildId) (tag : Option Tag) (p : List Byte) :
    (sendRequest k b tag p s).pending = s.pending := rfl

/-! ### The fields that the operations write -/

@[simp] theorem register_positions (k : PosKind) (tag : Tag) (v : Count) :
    (register k tag v s).positions = s.positions ++ [⟨k, tag, v, reached s.belt v⟩] := rfl
@[simp] theorem unregister_positions (k : PosKind) (tag : Tag) :
    (unregister k tag s).positions = s.positions.filter (fun p => !p.is k tag) := rfl
@[simp] theorem count_counters (c : CounterName) : (count c s).counters = s.counters.bump c := rfl
@[simp] theorem queueClaim_txQueue (tag : Tag) (n : Nat) (b : BuildId) :
    (queueClaim tag n b s).txQueue = s.txQueue ++ [⟨.claim tag n b, false, false, true⟩] := rfl
@[simp] theorem triggerSweep_sweep : (triggerSweep s).sweep = some (s.sweep.getD 0) := rfl
@[simp] theorem triggerSweep_pendingSweep :
    (triggerSweep s).pendingSweep = (s.pendingSweep || s.sweep.isSome) := rfl
@[simp] theorem endSweep_pendingSweep : (endSweep s).pendingSweep = false := rfl
@[simp] theorem updateRecord_track (tag : Tag) (f : TrackRecord → TrackRecord) :
    (updateRecord tag f s).track = s.track.map (fun r => if r.tag == tag then f r else r) := rfl
@[simp] theorem removeRecord_track (tag : Tag) :
    (removeRecord tag s).track = s.track.filter (fun r => !(r.tag == tag)) := rfl
@[simp] theorem setPhase_pick (tag : Tag) (ph : PickPhase) :
    (setPhase tag ph s).pick = s.pick.map (fun p => if p.tag == tag then { p with phase := ph } else p) := rfl
@[simp] theorem freePort_inFlight : (freePort s).inFlight = none := rfl
@[simp] theorem showBeacons_beacons : (showBeacons s).beacons = ⟨runBeacon s, attnBeacon s, stopBeacon s⟩ := rfl
@[simp] theorem sendRequest_seqCounter (k : OpKind) (b : BuildId) (tag : Option Tag) (p : List Byte) :
    (sendRequest k b tag p s).seqCounter = s.seqCounter + 1 := rfl
@[simp] theorem sendRequest_inFlight (k : OpKind) (b : BuildId) (tag : Option Tag) (p : List Byte) :
    (sendRequest k b tag p s).inFlight =
      some ⟨k, s.seqCounter + 1, b, tag, s.timeBase, limitOf k s.own1, false⟩ := rfl
@[simp] theorem sendRequest_utx (k : OpKind) (b : BuildId) (tag : Option Tag) (p : List Byte) :
    (sendRequest k b tag p s).utx = some (recordBytes (requestKind k) (s.seqCounter + 1) p) := rfl

/-! ### Builds -/

@[simp] theorem setBuild_build_same (b : BuildId) (v : Build) : (setBuild b v s).build b = v := by cases b <;> rfl
@[simp] theorem updateBuild_build_same (b : BuildId) (f : Build → Build) :
    (updateBuild b f s).build b = f (s.build b) := by cases b <;> rfl
theorem updateBuild_build_other (b c : BuildId) (f : Build → Build) (h : c ≠ b) :
    (updateBuild b f s).build c = s.build c := by cases b <;> cases c <;> first | rfl | exact absurd rfl h
@[simp] theorem updateBuild_buildA (f : Build → Build) : (updateBuild .A f s).buildA = f s.buildA := rfl
@[simp] theorem updateBuild_buildB (f : Build → Build) : (updateBuild .B f s).buildB = f s.buildB := rfl
@[simp] theorem updateBuild_A_buildB (f : Build → Build) : (updateBuild .A f s).buildB = s.buildB := rfl
@[simp] theorem updateBuild_B_buildA (f : Build → Build) : (updateBuild .B f s).buildA = s.buildA := rfl

/-- The record of a build depends on the two build fields alone. -/
theorem build_congr {s t : State} (ha : t.buildA = s.buildA) (hb : t.buildB = s.buildB) (b : BuildId) :
    t.build b = s.build b := by cases b <;> assumption

/-- The number of the station depends on its field alone. -/
theorem number_congr {s t : State} (h : t.stationNumber = s.stationNumber) : t.number = s.number := by
  simp [State.number, h]

/-! ### Builds are read through operations that write no build -/

@[simp] theorem showBeacons_build (b : BuildId) :
    (showBeacons s).build b = s.build b := build_congr (by simp) (by simp) b
@[simp] theorem register_build (k : PosKind) (tag : Tag) (v : Count) (b : BuildId) :
    (register k tag v s).build b = s.build b := build_congr (by simp) (by simp) b
@[simp] theorem unregister_build (k : PosKind) (tag : Tag) (b : BuildId) :
    (unregister k tag s).build b = s.build b := build_congr (by simp) (by simp) b
@[simp] theorem unregisterTrack_build (tag : Tag) (b : BuildId) :
    (unregisterTrack tag s).build b = s.build b := build_congr (by simp) (by simp) b
@[simp] theorem unregisterPick_build (tag : Tag) (b : BuildId) :
    (unregisterPick tag s).build b = s.build b := build_congr (by simp) (by simp) b
@[simp] theorem count_build (c : CounterName) (b : BuildId) :
    (count c s).build b = s.build b := build_congr (by simp) (by simp) b
@[simp] theorem offer_build (b' : TxBody) (b : BuildId) :
    (offer b' s).build b = s.build b := build_congr (by simp) (by simp) b
@[simp] theorem queueClaim_build (tag : Tag) (n : Nat) (b' : BuildId) (b : BuildId) :
    (queueClaim tag n b' s).build b = s.build b := build_congr (by simp) (by simp) b
@[simp] theorem abortClaim_build (tag : Tag) (b : BuildId) :
    (abortClaim tag s).build b = s.build b := build_congr (by simp) (by simp) b
@[simp] theorem unlinkClaim_build (tag : Tag) (b : BuildId) :
    (unlinkClaim tag s).build b = s.build b := build_congr (by simp) (by simp) b
@[simp] theorem triggerSweep_build (b : BuildId) :
    (triggerSweep s).build b = s.build b := build_congr (by simp) (by simp) b
@[simp] theorem endSweep_build (b : BuildId) :
    (endSweep s).build b = s.build b := build_congr (by simp) (by simp) b
@[simp] theorem updateRecord_build (tag : Tag) (f : TrackRecord → TrackRecord) (b : BuildId) :
    (updateRecord tag f s).build b = s.build b := build_congr (by simp) (by simp) b
@[simp] theorem removeRecord_build (tag : Tag) (b : BuildId) :
    (removeRecord tag s).build b = s.build b := build_congr (by simp) (by simp) b
@[simp] theorem setPhase_build (tag : Tag) (p : PickPhase) (b : BuildId) :
    (setPhase tag p s).build b = s.build b := build_congr (by simp) (by simp) b
@[simp] theorem recordFault_build (c : FaultCause) (v : Severity) (b' : Option BuildId) (tag : Option Tag) (b : BuildId) :
    (recordFault c v b' tag s).build b = s.build b := build_congr (by simp) (by simp) b
@[simp] theorem runTo_build (start : Millis) (n : Nat) (b : BuildId) :
    (runTo start n s).build b = s.build b := build_congr (by simp) (by simp) b
@[simp] theorem throttleAtJoin_build (b : BuildId) :
    (throttleAtJoin s).build b = s.build b := build_congr (by simp) (by simp) b
@[simp] theorem throttleAtLeave_build (b : BuildId) :
    (throttleAtLeave s).build b = s.build b := build_congr (by simp) (by simp) b
@[simp] theorem joinPick_build (tag : Tag) (b' : BuildId) (st : Count) (b : BuildId) :
    (joinPick tag b' st s).build b = s.build b := build_congr (by simp) (by simp) b
@[simp] theorem leavePick_build (tag : Tag) (b : BuildId) :
    (leavePick tag s).build b = s.build b := build_congr (by simp) (by simp) b
@[simp] theorem freePort_build (b : BuildId) :
    (freePort s).build b = s.build b := build_congr (by simp) (by simp) b
@[simp] theorem sendRequest_build (k : OpKind) (b' : BuildId) (tag : Option Tag) (p : List Byte) (b : BuildId) :
    (sendRequest k b' tag p s).build b = s.build b := build_congr (by simp) (by simp) b

end Sys2Proof.Machine
end

