-- ==== Sys2Proof/Laws/Ops.lean ====
section
/-!
SUPPORT. One lemma for each shared operation that says once what it does: offering a frame, aborting a claim, finding
and changing a record, the throttle, the pick order list, and the fault record.
-/
namespace Sys2Proof.Machine

variable {s : State}

/-! ### Offering a frame (R26, R163) -/

/-- In SILENT an offered frame is not placed and not counted (R163). -/
theorem offer_silent (b : TxBody) (h : s.station = .silent) : offer b s = s := by
  cases s; cases h; simp [offer]

/-- A full queue drops the frame and counts TX DROP (R26). -/
theorem offer_full (b : TxBody) (h : s.station ≠ .silent) (hl : txCapacity ≤ s.txQueue.length) :
    offer b s = count .txDrop s := by
  simp [offer, count, h, hl]

/-- With room, the frame is placed behind the frames held (R24). -/
theorem offer_room (b : TxBody) (h : s.station ≠ .silent) (hl : s.txQueue.length < txCapacity) :
    offer b s = { s with txQueue := s.txQueue ++ [TxFrame.fresh b] } := by
  simp [offer, h, Nat.not_le.mpr hl]

/-- The frames held stay when a frame is offered (R26). -/
theorem mem_offer (b : TxBody) (f : TxFrame) (h : f ∈ s.txQueue) : f ∈ (offer b s).txQueue := by
  simp only [offer]; split
  · exact h
  · exact List.mem_append_left _ h

/-- What is in the queue after an offer was held before or is the offered frame. -/
theorem offer_mem (b : TxBody) (f : TxFrame) (h : f ∈ (offer b s).txQueue) : f ∈ s.txQueue ∨ f = TxFrame.fresh b := by
  simp only [offer] at h; split at h
  · exact .inl h
  · simpa using h

/-! ### Aborting a claim (R27) -/

/-- A frame other than a CLAIM stays held as it is when a claim is aborted (R27). -/
theorem mem_abortClaim_of_not_claim (tag : Tag) (f : TxFrame) (hf : f.isClaim = false) (h : f ∈ s.txQueue) :
    f ∈ (abortClaim tag s).txQueue := by
  have ho : f.isOwnClaim tag = false := by
    unfold TxFrame.isOwnClaim; unfold TxFrame.isClaim at hf; split at hf <;> simp_all
  simp only [abortClaim, List.mem_map, List.mem_filter]
  exact ⟨f, ⟨h, by simp [ho]⟩, by simp [ho]⟩

/-- After an abort, a frame of the record that is still held is in transmission and is not offered again (R27). -/
theorem abortClaim_own (tag : Tag) (f : TxFrame) (h : f ∈ (abortClaim tag s).txQueue) (ho : f.isOwnClaim tag = true) :
    f.inTransmission = true ∧ f.noRetry = true := by
  simp only [abortClaim, List.mem_map, List.mem_filter] at h
  obtain ⟨g, ⟨_, hg⟩, rfl⟩ := h
  by_cases hog : g.isOwnClaim tag = true
  · simp_all
  · simp [hog] at ho

/-! ### The case track list -/

/-- A changed record is found under its tag when the change keeps tags. -/
theorem findRecord_updateRecord (tag : Tag) (f : TrackRecord → TrackRecord) (hf : ∀ r, (f r).tag = r.tag) :
    findRecord tag (updateRecord tag f s) = (findRecord tag s).map f := by
  simp only [findRecord, updateRecord, List.find?_map]
  have : ((fun r => r.tag == tag) ∘ fun r : TrackRecord => if r.tag == tag then f r else r) = fun r => r.tag == tag := by
    funext r; simp only [Function.comp]; split <;> simp [*]
  rw [this]
  cases h : s.track.find? (fun r => r.tag == tag) with
  | none => rfl
  | some r =>
    have := List.find?_some h
    simp_all

/-- A change of the record of one tag changes no record of another. -/
theorem findRecord_updateRecord_other (tag u : Tag) (f : TrackRecord → TrackRecord) (hf : ∀ r, (f r).tag = r.tag)
    (hn : u ≠ tag) : findRecord u (updateRecord tag f s) = findRecord u s := by
  simp only [findRecord, updateRecord, List.find?_map]
  have : ((fun r => r.tag == u) ∘ fun r : TrackRecord => if r.tag == tag then f r else r) = fun r => r.tag == u := by
    funext r; simp only [Function.comp]; split <;> simp [hf]
  rw [this]
  cases h : s.track.find? (fun r => r.tag == u) with
  | none => rfl
  | some r =>
    have := List.find?_some h
    simp_all

/-- The record found under a tag holds that tag. -/
theorem findRecord_tag (tag : Tag) (r : TrackRecord) (h : findRecord tag s = some r) : r.tag = tag := by
  have := List.find?_some h
  simpa using this

/-- The record found under a tag is a record of the list. -/
theorem findRecord_mem (tag : Tag) (r : TrackRecord) (h : findRecord tag s = some r) : r ∈ s.track :=
  List.mem_of_find?_eq_some h

/-- A tag that finds no record is no record's tag. -/
theorem findRecord_none (tag : Tag) : findRecord tag s = none ↔ ∀ r ∈ s.track, r.tag ≠ tag := by
  simp [findRecord, List.find?_eq_none]

/-! ### The fault record (R167) -/

/-- A record that is not Valid takes the fault whole, and Overflow stays clear (R167). -/
theorem recordFault_clear (c : FaultCause) (v : Severity) (b : Option BuildId) (tag : Option Tag)
    (h : s.fault.valid = false) :
    (recordFault c v b tag s).fault = ⟨true, false, v, some c, b, tag, s.belt, s.timeBase⟩ := by
  simp [recordFault, h]

/-- A STOP fault overwrites a Valid ATTN record, and Overflow keeps its value (R167). -/
theorem recordFault_overwrite (c : FaultCause) (b : Option BuildId) (tag : Option Tag)
    (h : s.fault.valid = true) (hv : s.fault.severity = .attn) :
    (recordFault c .stop b tag s).fault = ⟨true, s.fault.overflow, .stop, some c, b, tag, s.belt, s.timeBase⟩ := by
  simp [recordFault, h, hv]

/-- Any other fault on a Valid record only sets Overflow (R167). -/
theorem recordFault_overflow (c : FaultCause) (v : Severity) (b : Option BuildId) (tag : Option Tag)
    (h : s.fault.valid = true) (hv : s.fault.severity = .stop ∨ v = .attn) :
    (recordFault c v b tag s).fault = { s.fault with overflow := true } := by
  rcases hv with hv | hv <;> simp [recordFault, h, hv]

end Sys2Proof.Machine
end

