-- ==== Sys2Proof/Laws/Moves.lean ====
section
/-!
SUPPORT. What a command can do to the queues, the counters, the track list, the positions, the station state and the
configuration, said once: every command but POWER_ON and RESET is a run of the moves below (exec_moves in
Laws/Commands.lean), so an invariant of these parts is shown for the moves alone.
-/
namespace Sys2Proof.Machine

/-- One elementary move. `other` writes the fields that no bound and no order constrains here. -/
inductive Move : State → State → Prop
  | other {s t : State} (h : t = { s with
      ownSent := t.ownSent, eyeLatch := t.eyeLatch, throttled := t.throttled, throttleSeen := t.throttleSeen,
      sweep := t.sweep, pendingSweep := t.pendingSweep, buildA := t.buildA, buildB := t.buildB, pick := t.pick, inFlight := t.inFlight,
      seqCounter := t.seqCounter, robotReady := t.robotReady, receiver := t.receiver, utx := t.utx,
      pauseTimer := t.pauseTimer, pairing := t.pairing, fault := t.fault, timeBase := t.timeBase,
      beacons := t.beacons }) : Move s t
  | place {s : State} (b : TxBody) (hs : s.station ≠ .silent) (hl : s.txQueue.length < txCapacity) :
      Move s { s with txQueue := s.txQueue ++ [TxFrame.fresh b] }
  | queue {s : State} (tag : Tag) (n : Nat) (b : BuildId) (hs : s.station = .run) (hl : s.txQueue.length < txCapacity) :
      Move s (queueClaim tag n b s)
  | trim {s : State} (p : TxFrame → Bool) (g : TxFrame → TxFrame) (hp : ∀ f, f.inTransmission = true → p f = true)
      (hg : ∀ f, (g f).body = f.body ∧ (g f).inTransmission = f.inTransmission) :
      Move s { s with txQueue := (s.txQueue.filter p).map g }
  | start {s : State} (i : Nat) (f : TxFrame) (ho : onLine s = none) (hs : s.station ≠ .silent)
      (hf : s.txQueue[i]? = some f) : Move s (startTransmission i s)
  | drop {s : State} : Move s (dropOnLine s)
  | back {s : State} : Move s (returnToQueue s)
  | advance {s : State} (c : CounterName) : Move s (count c s)
  | zero {s : State} : Move s { s with counters := Counters.zero }
  | streak {s : State} (n : Nat) (hn : n ≤ 15) : Move s { s with streak := n }
  | cycles {s : State} (n : Nat) (hn : n ≤ 255) : Move s { s with cycles := n }
  | push {s : State} (f : Frame) (hl : s.rxBuffer.length < rxCapacity) : Move s { s with rxBuffer := s.rxBuffer ++ [f] }
  | pop {s : State} (f : Frame) (rest : List Frame) (h : s.rxBuffer = f :: rest) : Move s { s with rxBuffer := rest }
  | record {s : State} (g : TrackRecord → TrackRecord) (hg : ∀ r, (g r).tag = r.tag ∧ (g r).closeAt = r.closeAt) :
      Move s { s with track := s.track.map g }
  | remove {s : State} (tag : Tag) : Move s { s with
      track := s.track.filter (fun r => !(r.tag == tag))
      positions := s.positions.filter (fun p => !(p.is .sendDeadline tag || p.is .closePoint tag)) }
  | add {s : State} (r : TrackRecord) (p : Position) (hf : findRecord r.tag s = none) (hl : s.track.length < trackCapacity)
      (hp : p.kind = .closePoint ∧ p.tag = r.tag ∧ p.value = r.closeAt) :
      Move s { s with track := s.track ++ [r], positions := s.positions ++ [p] }
  | register {s : State} (p : Position) : Move s { s with positions := s.positions ++ [p] }
  | unregister {s : State} (keep : Position → Bool)
      (hk : ∀ p, p.kind = .closePoint → (∃ r ∈ s.track, r.tag = p.tag) → keep p = true) :
      Move s { s with positions := s.positions.filter keep }
  | clearLists {s : State} : Move s { s with track := [], positions := [] }
  | leave {s : State} (st : StationState) (hs : s.station = .run) (ht : st = .paused ∨ st = .stalled) :
      Move s { s with station := st }
  | return {s : State} (hs : s.station = .paused ∨ s.station = .stalled) : Move s { s with station := .run }
  | silence {s : State} (hs : s.station ≠ .silent) : Move s { s with station := .silent }
  | ready {s : State} (hs : s.station = .awaitConfig) : Move s { s with station := .run }
  | setup {s : State} (l : Option LineSetup) (a : Option Setup1) (b : Option Setup2) (hs : s.station = .awaitConfig) :
      Move s { s with lineSetup := l, setup1 := a, setup2 := b }

/-- A run of moves. -/
abbrev Moves : State → State → Prop := Relation.ReflTransGen Move

theorem Move.run {s t u : State} (h : Moves s t) (m : Move t u) : Moves s u := h.tail m

/-- A property that every move keeps holds at the end of a run if it holds at its start. -/
theorem Moves.keeps {P : State → Prop} (hP : ∀ s t, Move s t → P s → P t) {s t : State} (h : Moves s t) (hs : P s) :
    P t := by
  induction h with
  | refl => exact hs
  | tail _ m ih => exact hP _ _ m ih

/-- A fold of operations that are runs of moves is a run of moves. -/
theorem foldl_moves {α : Type} (f : State → α → State) (hf : ∀ s t a, Moves s t → Moves s (f t a)) (l : List α)
    {s t : State} (h : Moves s t) : Moves s (l.foldl f t) := by
  induction l generalizing t with
  | nil => exact h
  | cons a l ih => exact ih (hf s t a h)

variable {s t : State}

/-- An operation that writes only the unconstrained fields. -/
theorem other_moves {u : State} (h : Moves s t) (e : u = { t with
      ownSent := u.ownSent, eyeLatch := u.eyeLatch, throttled := u.throttled, throttleSeen := u.throttleSeen,
      sweep := u.sweep, pendingSweep := u.pendingSweep, buildA := u.buildA, buildB := u.buildB, pick := u.pick, inFlight := u.inFlight,
      seqCounter := u.seqCounter, robotReady := u.robotReady, receiver := u.receiver, utx := u.utx,
      pauseTimer := u.pauseTimer, pairing := u.pairing, fault := u.fault, timeBase := u.timeBase,
      beacons := u.beacons }) : Moves s u := h.tail (.other e)

/-! ### The operations of Machine/Ops.lean -/

theorem showBeacons_moves (h : Moves s t) : Moves s (showBeacons t) := other_moves h rfl
theorem triggerSweep_moves (h : Moves s t) : Moves s (triggerSweep t) := other_moves h rfl
theorem endSweep_moves (h : Moves s t) : Moves s (endSweep t) := other_moves h rfl
theorem setPhase_moves (tag : Tag) (p : PickPhase) (h : Moves s t) : Moves s (setPhase tag p t) := other_moves h rfl
theorem updateBuild_moves (b : BuildId) (f : Build → Build) (h : Moves s t) : Moves s (updateBuild b f t) :=
  other_moves h (by cases b <;> rfl)
theorem recordFault_moves (c : FaultCause) (v : Severity) (b : Option BuildId) (tag : Option Tag) (h : Moves s t) :
    Moves s (recordFault c v b tag t) := other_moves h rfl
theorem runTo_moves (m : Millis) (n : Nat) (h : Moves s t) : Moves s (runTo m n t) := other_moves h rfl
theorem freePort_moves (h : Moves s t) : Moves s (freePort t) := other_moves h rfl
theorem count_moves (c : CounterName) (h : Moves s t) : Moves s (count c t) := h.tail (.advance c)

theorem register_moves (k : PosKind) (tag : Tag) (v : Count) (h : Moves s t) : Moves s (register k tag v t) :=
  h.tail (.register _)

theorem unregister_moves (k : PosKind) (tag : Tag) (hk : k ≠ .closePoint) (h : Moves s t) :
    Moves s (unregister k tag t) :=
  h.tail (.unregister _ (fun p hp _ => by simp [Position.is, hp, Ne.symm hk]))

theorem unregisterPick_moves (tag : Tag) (h : Moves s t) : Moves s (unregisterPick tag t) :=
  h.tail (.unregister _ (fun p hp _ => by simp [Position.is, hp]))

theorem offer_moves (b : TxBody) (h : Moves s t) : Moves s (offer b t) := by
  by_cases hs : t.station = .silent
  · rwa [offer_silent b hs]
  · by_cases hl : txCapacity ≤ t.txQueue.length
    · rw [offer_full b hs hl]; exact count_moves _ h
    · rw [offer_room b hs (by omega)]; exact h.tail (.place b hs (by omega))

theorem abortClaim_moves (tag : Tag) (h : Moves s t) : Moves s (abortClaim tag t) :=
  h.tail (.trim _ _ (fun f hf => by simp [hf]) (fun f => by split <;> simp))

theorem unlinkClaim_moves (tag : Tag) (h : Moves s t) : Moves s (unlinkClaim tag t) := by
  have := h.tail (.trim (fun _ => true)
    (fun f => if f.isOwnClaim tag then { f with noRetry := true, linked := false } else f)
    (fun f _ => rfl) (fun f => by split <;> simp))
  simpa [unlinkClaim] using this

theorem updateRecord_moves (tag : Tag) (f : TrackRecord → TrackRecord)
    (hf : ∀ r, (f r).tag = r.tag ∧ (f r).closeAt = r.closeAt) (h : Moves s t) : Moves s (updateRecord tag f t) :=
  h.tail (.record _ (fun r => by split <;> simp [hf]))

theorem removeRecord_moves (tag : Tag) (h : Moves s t) : Moves s (removeRecord tag t) := by
  have h1 : Moves s _ := (h.tail (.remove tag))
  have h2 : Moves s _ := unlinkClaim_moves tag h1
  exact other_moves h2 rfl

theorem throttleAtJoin_moves (h : Moves s t) : Moves s (throttleAtJoin t) := by
  unfold throttleAtJoin; split
  · exact other_moves h rfl
  · exact h

theorem throttleAtLeave_moves (h : Moves s t) : Moves s (throttleAtLeave t) := by
  unfold throttleAtLeave; split
  · exact triggerSweep_moves (other_moves h rfl)
  · exact h

theorem joinPick_moves (tag : Tag) (b : BuildId) (c : Count) (h : Moves s t) : Moves s (joinPick tag b c t) :=
  throttleAtJoin_moves (register_moves _ _ _ (other_moves h rfl))

theorem leavePick_moves (tag : Tag) (h : Moves s t) : Moves s (leavePick tag t) := by
  unfold leavePick; split
  · exact throttleAtLeave_moves (unregisterPick_moves _ (other_moves h rfl))
  · exact h

/-! ### The operations of Machine/Plan.lean -/

theorem reportBuild_moves (b : BuildId) (h : Moves s t) : Moves s (reportBuild b t) := offer_moves _ h
theorem palletDone_moves (b : BuildId) (v : Bool) (h : Moves s t) : Moves s (palletDone b v t) := offer_moves _ h

theorem toUnbid_moves (tag : Tag) (h : Moves s t) : Moves s (updateRecord tag TrackRecord.toUnbid t) :=
  updateRecord_moves _ _ (fun _ => ⟨rfl, rfl⟩) h

theorem unbackRecord_moves (tag : Tag) (h : Moves s t) : Moves s (unbackRecord tag t) := by
  unfold unbackRecord
  repeat' split
  · exact h
  · exact updateRecord_moves _ _ (fun _ => ⟨rfl, rfl⟩) h
  · exact abortClaim_moves _ (updateRecord_moves _ _ (fun _ => ⟨rfl, rfl⟩) h)
  · exact toUnbid_moves _ (abortClaim_moves _ h)
  all_goals exact h

theorem takeOut_moves (b : BuildId) (e : PlanEntry) (h : Moves s t) : Moves s (takeOut b e t) :=
  triggerSweep_moves (updateBuild_moves _ _ h)

theorem withdrawEntry_moves (b : BuildId) (m : MissReason) (e : PlanEntry) (h : Moves s t) :
    Moves s (withdrawEntry b m e t) := by
  unfold withdrawEntry; split
  · exact unbackRecord_moves _ (takeOut_moves _ _ h)
  · exact offer_moves _ (leavePick_moves _ (takeOut_moves _ _ h))
  · exact offer_moves _ (leavePick_moves _ (takeOut_moves _ _ h))

theorem dropEntry_moves (b : BuildId) (e : PlanEntry) (h : Moves s t) : Moves s (dropEntry b e t) :=
  leavePick_moves _ (takeOut_moves _ _ h)

theorem walkEntry_moves (b : BuildId) (f : Bool) (e : PlanEntry) (h : Moves s t) :
    Moves s (walkEntry b (t, f) e).1 := by
  unfold walkEntry; split
  · exact updateBuild_moves b (fun x => { x with planned := x.planned.apply e.foot e.h e.weight e.rating }) h
  · exact withdrawEntry_moves _ _ _ h

theorem walk_moves (b : BuildId) (l : List PlanEntry) (f : Bool) (h : Moves s t) :
    Moves s (l.foldl (walkEntry b) (t, f)).1 := by
  induction l generalizing t f with
  | nil => exact h
  | cons e l ih => exact ih (walkEntry b (t, f) e).2 (walkEntry_moves b f e h)

theorem recompute_moves (b : BuildId) (h : Moves s t) : Moves s (recompute b t) := by
  have hw := walk_moves b (t.build b).plan false
    (updateBuild_moves b (fun x => { x with planned := x.built }) h)
  unfold recompute
  simp only
  split
  · exact triggerSweep_moves hw
  · exact hw

theorem withdrawAlone_moves (b : BuildId) (m : MissReason) (e : PlanEntry) (h : Moves s t) :
    Moves s (withdrawAlone b m e t) := recompute_moves _ (withdrawEntry_moves _ _ _ h)

theorem withdrawMovable_moves (b : BuildId) (m : MissReason) (h : Moves s t) : Moves s (withdrawMovable b m t) :=
  foldl_moves _ (fun _ _ e h => withdrawEntry_moves b m e h) _ h

theorem withdrawBatch_moves (b : BuildId) (m : MissReason) (h : Moves s t) : Moves s (withdrawBatch b m t) := by
  unfold withdrawBatch; split
  · exact h
  · exact recompute_moves _ (withdrawMovable_moves _ _ h)

theorem enterHeld_moves (b : BuildId) (o : HoldOrigin) (h : Moves s t) : Moves s (enterHeld b o t) := by
  unfold enterHeld; split
  · exact h
  · exact reportBuild_moves _ (withdrawBatch_moves _ _ (updateBuild_moves _ _ h))

theorem settleEnding_moves (b : BuildId) (h : Moves s t) : Moves s (settleEnding b t) := by
  unfold settleEnding; simp only; split
  · split
    · exact h
    · exact reportBuild_moves _ (updateBuild_moves _ _ h)
    · exact reportBuild_moves _ (updateBuild_moves _ _ (palletDone_moves _ _ h))
  · exact h

theorem overload_moves (b : BuildId) (tag : Tag) (h : Moves s t) : Moves s (overload b tag t) := by
  unfold overload; simp only; split
  · exact recordFault_moves _ _ _ _ h
  · exact withdrawMovable_moves _ _ (updateBuild_moves _ _ (recordFault_moves _ _ _ _ h))

theorem applyAndHold_moves (b : BuildId) (e : PlanEntry) (w : Nat) (h : Moves s t) : Moves s (applyAndHold b e w t) := by
  unfold applyAndHold; split
  · exact overload_moves _ _ (updateBuild_moves _ _ h)
  · exact updateBuild_moves _ _ h

theorem completeIfDone_moves (b : BuildId) (h : Moves s t) : Moves s (completeIfDone b t) := by
  unfold completeIfDone; split
  · exact updateBuild_moves _ _ h
  · exact h

theorem reportChange_moves (b : BuildId) (st : BuildState) (h : Moves s t) : Moves s (reportChange b st t) := by
  unfold reportChange; split
  · exact h
  · exact reportBuild_moves _ h

theorem takePlaced_moves (b : BuildId) (e : PlanEntry) (w : Nat) (h : Moves s t) : Moves s (takePlaced b e w t) :=
  settleEnding_moves _ (reportChange_moves _ _ (recompute_moves _ (completeIfDone_moves _
    (leavePick_moves _ (triggerSweep_moves (updateBuild_moves _ _ (applyAndHold_moves _ _ _ h)))))))

/-! ### The operations of Machine/Claims.lean -/

/-- An eligible build finds the station in RUN with room in the transmit queue (R18). -/
theorem eligible_room (b : BuildId) (h : eligible t b = true) :
    t.station = .run ∧ t.txQueue.length < txCapacity := by
  simp only [eligible, Bool.and_eq_true, beq_iff_eq, decide_eq_true_eq] at h
  exact ⟨h.1.2, h.2⟩

/-- A candidate of the station comes from an eligible build (R21). -/
theorem stationCandidate_room (d : CaseDesc) (c : Candidate) (h : stationCandidate t d = some c) :
    t.station = .run ∧ t.txQueue.length < txCapacity := by
  have key : ∀ b, (eligibleCandidate t b d).isSome = true → t.station = .run ∧ t.txQueue.length < txCapacity := by
    intro b hb
    unfold eligibleCandidate at hb
    split at hb
    · exact eligible_room b ‹_›
    · simp at hb
  unfold stationCandidate at h
  split at h
  · exact key .B (by simp [h])
  · exact key .A (by rw [‹eligibleCandidate t .A d = _›]; rfl)
  · exact key .A (by rw [‹eligibleCandidate t .A d = _›]; rfl)

theorem bid_moves (r : TrackRecord) (c : Candidate) (h : Moves s t) (hs : t.station = .run)
    (hl : t.txQueue.length < txCapacity) : Moves s (bid r c t) := by
  refine updateRecord_moves _ _ (fun _ => ⟨rfl, rfl⟩) ((updateBuild_moves _ _ h).tail (.queue _ _ _ ?_ ?_))
  · simpa using hs
  · simpa using hl

theorem evaluate_moves (r : TrackRecord) (h : Moves s t) : Moves s (evaluate r t) := by
  unfold evaluate
  split
  · split
    · exact h
    · split
      · exact bid_moves _ _ h (stationCandidate_room _ _ ‹_›).1 (stationCandidate_room _ _ ‹_›).2
      · exact h
  · exact h

theorem removeContested_moves (b : BuildId) (tag : Tag) (h : Moves s t) : Moves s (removeContested b tag t) := by
  unfold removeContested; split
  · exact h
  · exact recompute_moves _ (takeOut_moves _ _ h)

theorem removeBidEntry_moves (r : TrackRecord) (h : Moves s t) : Moves s (removeBidEntry r t) := by
  unfold removeBidEntry; split
  · exact h
  · exact removeContested_moves _ _ h

theorem loseClaim_moves (r : TrackRecord) (h : Moves s t) : Moves s (loseClaim r t) := by
  unfold loseClaim
  refine count_moves _ ?_
  have h1 := removeBidEntry_moves r
    (updateRecord_moves r.tag (fun r => { r.dropEntryRef with state := .lost }) (fun _ => ⟨rfl, rfl⟩) h)
  split
  · exact abortClaim_moves _ h1
  · exact h1

theorem hear_moves (tag : Tag) (c : Heard) (h : Moves s t) : Moves s (updateRecord tag (TrackRecord.hear c) t) :=
  updateRecord_moves _ _ (fun r => by unfold TrackRecord.hear; split <;> exact ⟨rfl, rfl⟩) h

theorem hearClaim_moves (tag : Tag) (c : Heard) (h : Moves s t) : Moves s (hearClaim tag c t) := by
  unfold hearClaim
  split
  · exact h
  · split
    · simp only
      split
      · exact loseClaim_moves _ (hear_moves _ _ h)
      · exact hear_moves _ _ h
    · exact h

theorem takeDeadline_moves (tag : Tag) (h : Moves s t) : Moves s (takeDeadline tag t) := by
  have h1 := updateRecord_moves tag (fun r => { r with deadlinePassed := true }) (fun _ => ⟨rfl, rfl⟩)
    (unregister_moves .sendDeadline tag (by decide) h)
  unfold takeDeadline
  simp only
  split
  · exact h1
  · split
    · split
      · exact abortClaim_moves _ h1
      · exact removeBidEntry_moves _ (toUnbid_moves _ (abortClaim_moves _ h1))
    · exact h1

theorem abortAllClaims_moves (h : Moves s t) : Moves s (abortAllClaims t) :=
  h.tail (.trim _ _ (fun f hf => by simp [hf]) (fun f => by split <;> simp))

theorem takeOutAborted_moves (b : BuildId) (tags : List Tag) (h : Moves s t) : Moves s (takeOutAborted b tags t) :=
  foldl_moves _ (fun _ _ e h => toUnbid_moves e.tag (takeOut_moves b e h)) _ h

theorem recomputeIf_moves (f : Bool) (b : BuildId) (h : Moves s t) : Moves s (recomputeIf f b t) := by
  unfold recomputeIf; split
  · exact recompute_moves _ h
  · exact h

theorem leaveRun_moves (h : Moves s t) : Moves s (leaveRun t) :=
  recomputeIf_moves _ _ (recomputeIf_moves _ _
    (takeOutAborted_moves _ _ (takeOutAborted_moves _ _ (abortAllClaims_moves h))))

theorem winCase_moves (r : TrackRecord) (b : BuildId) (h : Moves s t) : Moves s (winCase r b t) :=
  joinPick_moves _ _ _ (updateBuild_moves _ _ h)

theorem freshPlacement_moves (r : TrackRecord) (b : BuildId) (h : Moves s t) : Moves s (freshPlacement r b t) := by
  unfold freshPlacement; simp only; split
  · exact joinPick_moves _ _ _ (updateBuild_moves _ _ h)
  · exact count_moves _ (offer_moves _ h)

theorem closeDecision_moves (r : TrackRecord) (h : Moves s t) : Moves s (closeDecision r t) := by
  unfold closeDecision
  split
  · exact h
  · exact h
  · exact removeBidEntry_moves _ (abortClaim_moves _ h)
  · exact h
  · split
    · exact count_moves _ (removeBidEntry_moves _ h)
    · exact winCase_moves _ _ h
  · exact h
  · split
    · exact h
    · exact freshPlacement_moves _ _ h

/-! ### The operations of Machine/Port.lean -/

theorem grantScan_moves (b : BuildId) (k : ScanKind) (h : Moves s t) : Moves s (grantScan b k t) :=
  other_moves (updateBuild_moves b (Build.startScan k) h) rfl
theorem grantSwap_moves (b : BuildId) (h : Moves s t) : Moves s (grantSwap b t) :=
  other_moves (updateBuild_moves b (fun x => { x with swapDue := false, swapInFlight := true }) h) rfl

theorem grantPlace_moves (p : PickEntry) (m : EyeMatch) (e : PlanEntry) (h : Moves s t) :
    Moves s (grantPlace p m e t) :=
  other_moves (unregister_moves .pickClose p.tag (by decide) (setPhase_moves p.tag (.placing m) (updateBuild_moves p.build
    (fun x => { x with plan := x.plan.map (fun q => if q.tag == p.tag then { q with state := .placing } else q) }) h))) rfl

theorem runArbiter_moves (h : Moves s t) : Moves s (runArbiter t) := by
  unfold runArbiter
  split
  · split
    · exact grantScan_moves _ _ h
    · exact grantScan_moves _ _ h
    · split
      · exact grantSwap_moves _ h
      · split
        · exact grantSwap_moves _ h
        · split
          · split
            · exact grantPlace_moves _ _ _ h
            · exact h
          · exact h
  · exact h

theorem reachQuickLimit_moves (b : BuildId) (tag : Option Tag) (h : Moves s t) (hs : t.station = .run) :
    Moves s (reachQuickLimit b tag t) := by
  have h1 : Moves s { t with cycles := saturate255 t.cycles } := h.tail (.cycles _ (by simp [saturate255]))
  unfold reachQuickLimit
  simp only
  split
  · exact recordFault_moves _ _ _ _ (leaveRun_moves (h1.tail (.leave .stalled hs (.inr rfl))))
  · exact recordFault_moves _ _ _ _ (leaveRun_moves (other_moves (h1.tail (.leave .paused hs (.inl rfl))) rfl))

theorem streakFailure_moves (b : BuildId) (tag : Option Tag) (h : Moves s t) : Moves s (streakFailure b tag t) := by
  have h1 : Moves s { t with streak := min (t.streak + 1) 15 } := h.tail (.streak _ (by omega))
  unfold streakFailure
  simp only
  split
  · exact reachQuickLimit_moves _ _ h1 (‹_ ∧ _›).1
  · exact h1

theorem streakSuccess_moves (h : Moves s t) : Moves s (streakSuccess t) :=
  (h.tail (.streak 0 (by omega))).tail (.cycles 0 (by omega))

theorem stepScanTest_moves (b : BuildId) (n : Nat) (h : Moves s t) : Moves s (stepScanTest b n t) := by
  unfold stepScanTest; split
  · exact updateBuild_moves _ _ h
  · exact h

theorem outcomePlaced_moves (b : BuildId) (e : PlanEntry) (n : Nat) (h : Moves s t) :
    Moves s (outcomePlaced b e n t) := by
  unfold outcomePlaced
  simp only
  refine streakSuccess_moves (stepScanTest_moves _ _ (takePlaced_moves _ _ _ ?_))
  split
  · exact count_moves _ h
  · exact h

theorem outcomeNotPicked_moves (b : BuildId) (e : PlanEntry) (h : Moves s t) : Moves s (outcomeNotPicked b e t) :=
  settleEnding_moves _ (withdrawAlone_moves _ _ _ h)

theorem becomeUncertain_moves (b : BuildId) (e : PlanEntry) (u : Hypotheses) (h : Moves s t) :
    Moves s (becomeUncertain b e u t) := by
  unfold becomeUncertain; split
  · exact settleEnding_moves _ (recompute_moves _ (dropEntry_moves _ _ h))
  · exact updateBuild_moves _ _ (updateBuild_moves _ _ h)

theorem takeOutcome_moves (o : PlaceOutcome) (n : Nat) (b : BuildId) (e : PlanEntry) (h : Moves s t) :
    Moves s (takeOutcome o n b e t) := by
  unfold takeOutcome; split
  · exact outcomePlaced_moves _ _ _ h
  · exact streakFailure_moves _ _ (outcomeNotPicked_moves _ _ h)
  · exact streakFailure_moves _ _ (outcomeNotPicked_moves _ _ h)
  · exact streakFailure_moves _ _ (becomeUncertain_moves _ _ _ h)

theorem rescanMatch_moves (b : BuildId) (h : Moves s t) : Moves s (rescanMatch b t) := by
  unfold rescanMatch
  refine reportBuild_moves _ ?_
  split
  · exact triggerSweep_moves (updateBuild_moves _ _ h)
  · exact updateBuild_moves _ _ h

theorem finalMatch_moves (b : BuildId) (h : Moves s t) : Moves s (finalMatch b t) :=
  reportBuild_moves _ (updateBuild_moves _ _ (palletDone_moves _ _ h))

theorem scanMismatch_moves (b : BuildId) (tag : Option Tag) (h : Moves s t) : Moves s (scanMismatch b tag t) := by
  have h1 := recordFault_moves .verifyMismatch .attn (some b) tag h
  unfold scanMismatch
  simp only
  split
  · exact enterHeld_moves _ _ h1
  · exact enterHeld_moves _ _ h1
  · exact reportBuild_moves _ h1
  all_goals exact h1

theorem setMap_moves (b : BuildId) (m : Tiles Bool) (h : Moves s t) : Moves s (setMap b m t) := updateBuild_moves _ _ h

theorem plainResult_moves (b : BuildId) (k : ScanKind) (m : Tiles Nat) (h : Moves s t) :
    Moves s (plainResult b k m t) := by
  unfold plainResult
  simp only
  split
  · exact h
  · split
    · split
      · exact finalMatch_moves _ (setMap_moves _ _ h)
      · split
        · exact rescanMatch_moves _ (setMap_moves _ _ h)
        · exact setMap_moves _ _ h
    · exact scanMismatch_moves _ _ (setMap_moves _ _ h)

theorem afterResolution_moves (b : BuildId) (k : ScanKind) (o : Bool) (h : Moves s t) :
    Moves s (afterResolution b k o t) := by
  unfold afterResolution; split
  · exact rescanMatch_moves _ h
  · exact h

theorem uncertainResult_moves (b : BuildId) (k : ScanKind) (e : PlanEntry) (m : Tiles Nat) (h : Moves s t) :
    Moves s (uncertainResult b k e m t) := by
  unfold uncertainResult
  simp only
  split
  · exact afterResolution_moves _ _ _ (takePlaced_moves _ _ _ (setMap_moves _ _ h))
  · split
    · exact afterResolution_moves _ _ _ (settleEnding_moves _ (withdrawAlone_moves _ _ _ (setMap_moves _ _ h)))
    · exact scanMismatch_moves _ _ (setMap_moves _ _ h)

theorem sweepIfStillOpen_moves (b : BuildId) (st : BuildState) (h : Moves s t) : Moves s (sweepIfStillOpen b st t) := by
  unfold sweepIfStillOpen; split
  · exact triggerSweep_moves h
  · exact h

theorem scanResult_moves (b : BuildId) (f : ScanFlight) (m : Tiles Nat) (h : Moves s t) :
    Moves s (scanResult b f m t) := by
  unfold scanResult
  split
  · exact h
  · split
    · exact uncertainResult_moves _ _ _ _ h
    · exact plainResult_moves _ _ _ h

theorem scanExpired_moves (b : BuildId) (f : ScanFlight) (h : Moves s t) : Moves s (scanExpired b f t) := by
  unfold scanExpired
  split
  · exact h
  · have h1 := recordFault_moves .scanTimeout .attn (some b) ((uncertainEntry (t.build b)).map PlanEntry.tag) h
    simp only
    split
    · exact enterHeld_moves _ _ h1
    · exact enterHeld_moves _ _ h1
    all_goals exact h1

/-! ### The operations of Machine/Commands.lean -/

theorem answer_moves (n : Nat) (b : Option BuildId) (r : ReplyCode) (h : Moves s t) : Moves s (answer n b r t) :=
  offer_moves _ h
theorem answerSetup_moves (n : Nat) (r : ReplyCode) (h : Moves s t) : Moves s (answerSetup n r t) := offer_moves _ h

theorem handOn_moves (p : Frame → Bool) (act : Frame → State → State)
    (ha : ∀ (f : Frame) (u : State), Moves s u → Moves s (act f u)) (h : Moves s t) : Moves s (handOn p act t) := by
  unfold handOn
  split
  · exact h
  · split
    · exact ha _ _ (h.tail (.pop _ _ ‹_›))
    · exact h

theorem onCommand_moves (f : Frame) (act : State → State) (ha : ∀ u : State, Moves s u → Moves s (act u))
    (h : Moves s t) : Moves s (onCommand f act t) := by
  unfold onCommand
  split
  · exact h
  · exact ha _ (other_moves h rfl)

theorem buildCommand_moves (n : Nat) (act : Frame → BuildId → State → State)
    (ha : ∀ (f : Frame) (b : BuildId) (u : State), Moves s u → Moves s (act f b u)) (h : Moves s t) :
    Moves s (buildCommand n act t) := by
  refine handOn_moves _ _ (fun f u hu => onCommand_moves _ _ (fun v hv => ?_) hu) h
  unfold onBuildCommand
  split
  · exact hv
  · split
    · exact answer_moves _ _ _ hv
    · split
      · exact answer_moves _ _ _ hv
      · split
        · exact answer_moves _ _ _ hv
        · exact ha _ _ _ hv

end Sys2Proof.Machine
end

