-- ==== Sys2Proof/Laws/Commands.lean ====
section
/-!
SUPPORT. What each command does, as a run of moves: every command answers a next state, and the next state of every
command but POWER_ON, RESET and ENCODER_PULSE is reached by the moves of Laws/Moves.lean.
-/
namespace Sys2Proof.Machine

variable {s t : State}

/-! ### The belt side -/

theorem isRaised_deadline_moves (tag : Tag) (h : Moves s t) : Moves s (sendDeadline tag t) := by
  unfold sendDeadline; split
  · exact takeDeadline_moves _ h
  · exact h

theorem closeRecord_moves (tag : Tag) (h : Moves s t) : Moves s (closeRecord tag t) := by
  unfold closeRecord
  split
  · rename_i hn
    refine h.tail (.unregister _ (fun p hp hr => ?_))
    obtain ⟨r, hr, ht⟩ := hr
    have := (findRecord_none tag).mp hn r hr
    simp only [Position.is, hp, ← ht]
    simpa using this
  · exact removeRecord_moves _ (closeDecision_moves _ h)

theorem closePoint_moves (tag : Tag) (h : Moves s t) : Moves s (closePoint tag t) := by
  unfold closePoint; split
  · refine closeRecord_moves _ ?_
    split
    · exact takeDeadline_moves _ h
    · exact h
  · exact h

theorem giveUp_moves (tag : Tag) (m : MissReason) (h : Moves s t) : Moves s (giveUp tag m t) := by
  unfold giveUp
  split
  · exact h
  · split
    · exact h
    · exact withdrawAlone_moves _ _ _ h

theorem eyeWindowEnd_moves (tag : Tag) (h : Moves s t) : Moves s (eyeWindowEnd tag t) := by
  unfold eyeWindowEnd; split
  · exact giveUp_moves _ _ (count_moves _ (unregister_moves _ _ (by decide) h))
  · exact h

theorem pickOpenPoint_moves (tag : Tag) (h : Moves s t) : Moves s (pickOpenPoint tag t) := by
  unfold pickOpenPoint; split
  · exact runArbiter_moves (other_moves (unregister_moves .pickOpen tag (by decide) h) rfl)
  · exact h

theorem pickClosePoint_moves (tag : Tag) (h : Moves s t) : Moves s (pickClosePoint tag t) := by
  unfold pickClosePoint; split
  · exact giveUp_moves _ _ (count_moves _ (unregister_moves _ _ (by decide) h))
  · exact h

theorem eyeEdge_moves (h : Moves s t) : Moves s (eyeEdge t) := by
  unfold eyeEdge; split
  · exact other_moves h rfl
  · exact count_moves _ h

theorem arrive_moves (p : PickEntry) (c : Count) (h : Moves s t) : Moves s (arrive p c t) := by
  have h1 (n : Bool) := setPhase_moves p.tag (.arrived ⟨c, c + t.own1.pickOpen, c + t.own1.pickClose, n⟩)
    (unregister_moves .eyeWindowEnd p.tag (by decide) h)
  unfold arrive
  simp only
  split
  · exact runArbiter_moves (register_moves _ _ _ (h1 _))
  · exact register_moves _ _ _ (register_moves _ _ _ (h1 _))

theorem eyeCapture_moves (h : Moves s t) : Moves s (eyeCapture t) := by
  unfold eyeCapture
  split
  · exact h
  · have h1 : Moves s { t with eyeLatch := none } := other_moves h rfl
    simp only
    split
    · split
      · exact h1
      · exact arrive_moves _ _ h1
    · exact h1

/-! ### The depot line -/

theorem bufferFrame_moves (f : Frame) (h : Moves s t) : Moves s (bufferFrame f t) := by
  unfold bufferFrame; split
  · exact count_moves _ h
  · exact h.tail (.push f (by omega))

theorem emptyTxQueue_moves (h : Moves s t) : Moves s (emptyTxQueue t) :=
  h.tail (.trim _ _ (fun _ hf => hf) (fun _ => ⟨rfl, rfl⟩))

theorem enterSilent_moves (hs : t.station ≠ .silent) (h : Moves s t) : Moves s (enterSilent t) :=
  recordFault_moves _ _ _ _ (emptyTxQueue_moves (leaveRun_moves
    (other_moves (h.tail (.silence hs)) (u := { t with station := .silent, pauseTimer := none, pairing := none }) rfl)))

theorem forgetOwn_moves (h : Moves s t) : Moves s (forgetOwn t) := other_moves h rfl

theorem frameReception_moves (f : Frame) (own : Bool) (h : Moves s t) : Moves s (frameReception f own t) := by
  unfold frameReception
  split
  · refine bufferFrame_moves _ ?_
    split
    · exact forgetOwn_moves h
    · split
      · exact enterSilent_moves (fun hs => by simp [isDuplicate, hs] at *) h
      · exact h
  · exact h

theorem appendRecord_moves (r : TrackRecord) (hf : findRecord r.tag t = none) (hl : t.track.length < trackCapacity)
    (h : Moves s t) : Moves s (appendRecord r t) := by
  have h1 : Moves s (register .closePoint r.tag r.closeAt { t with track := t.track ++ [r] }) :=
    h.tail (.add r _ hf hl ⟨rfl, rfl, rfl⟩)
  unfold appendRecord
  simp only
  split
  · exact h1
  · exact register_moves _ _ _ h1

theorem takeNotice_moves (p : List Byte) (h : Moves s t) : Moves s (takeNotice p t) := by
  unfold takeNotice
  split
  · exact count_moves _ h
  · rename_i hn
    unfold noticeRefusal at hn
    repeat (split at hn; simp at hn)
    refine evaluate_moves _ (appendRecord_moves _ ?_ (by omega) h)
    simpa [noticeRecord] using ‹¬(findRecord (wordAt p 0) t).isSome = true›

theorem caseNotice_moves (h : Moves s t) : Moves s (caseNotice t) :=
  handOn_moves _ _ (fun f u hu => by
    split
    · exact takeNotice_moves _ hu
    · exact hu) h

theorem claim_moves (h : Moves s t) : Moves s (claim t) :=
  handOn_moves _ _ (fun _ _ hu => hearClaim_moves _ _ hu) h
theorem miss_moves (h : Moves s t) : Moves s (miss t) := handOn_moves _ _ (fun _ _ hu => hu) h
theorem replyReportHelloReady_moves (h : Moves s t) : Moves s (replyReportHelloReady t) :=
  handOn_moves _ _ (fun _ _ hu => hu) h

/-- A place that lowestHeld names is in the queue. -/
theorem lowestHeld_lt (n : Nat) (q : List TxFrame) (i : Nat) (h : lowestHeld n q = some i) : i < q.length := by
  induction q generalizing i with
  | nil => simp [lowestHeld] at h
  | cons f rest ih =>
    unfold lowestHeld at h
    split at h
    · simp at h; simp [← h]
    · have := ih _ ‹_›
      split at h
      · simp at h; simp [← h]
      · split at h <;> simp at h <;> simp [← h, this]

theorem arbitration_moves (won : Bool) (h : Moves s t) : Moves s (arbitration won t) := by
  unfold arbitration
  split
  · rename_i hc
    split
    · exact h
    · have hi := lowestHeld_lt _ _ _ ‹_›
      refine h.tail (.start _ _ ?_ ?_ (List.getElem?_eq_getElem hi))
      · simp at hc; exact hc.1.1
      · simp at hc; exact hc.1.2
  · exact h

theorem dropOnLine_moves (h : Moves s t) : Moves s (dropOnLine t) := h.tail .drop

theorem transmissionComplete_moves (h : Moves s t) : Moves s (transmissionComplete t) := by
  unfold transmissionComplete
  split
  · exact h
  · split
    · exact dropOnLine_moves h
    · exact updateRecord_moves _ _ (fun r => by unfold TrackRecord.transmitted; split <;> exact ⟨rfl, rfl⟩)
        (dropOnLine_moves h)

theorem claimFailed_moves (tag : Tag) (h : Moves s t) : Moves s (claimFailed tag t) := by
  unfold claimFailed
  repeat' split
  · exact h
  · exact removeBidEntry_moves _ (toUnbid_moves _ h)
  · exact toUnbid_moves _ h
  all_goals exact h

theorem transmissionFailure_moves (h : Moves s t) : Moves s (transmissionFailure t) := by
  unfold transmissionFailure
  split
  · exact h
  · split
    · split
      · exact dropOnLine_moves (forgetOwn_moves h)
      · exact claimFailed_moves _ (dropOnLine_moves (forgetOwn_moves h))
    · exact (forgetOwn_moves h).tail .back

theorem sweepOffer_moves (h : Moves s t) : Moves s (sweepOffer t) := by
  unfold sweepOffer
  split
  · exact h
  · split
    · exact endSweep_moves h
    · unfold advanceSweep
      split
      · exact other_moves (evaluate_moves _ h) rfl
      · exact endSweep_moves (evaluate_moves _ h)

/-! ### The supervisor's commands -/

theorem orderOpenOn_moves (f : Frame) (b : BuildId) (h : Moves s t) : Moves s (orderOpenOn f b t) := by
  have h1 := updateBuild_moves b (Build.load (headerOf f.payload)) h
  unfold orderOpenOn
  simp only
  split
  · split
    · exact reportBuild_moves _ (answer_moves _ _ _ h1)
    · exact answer_moves _ _ _ h
  · split
    · exact answer_moves _ _ _ h1
    · exact answer_moves _ _ _ h
  · exact h
  all_goals exact answer_moves _ _ _ h

theorem orderLinesOn_moves (f : Frame) (b : BuildId) (h : Moves s t) : Moves s (orderLinesOn f b t) := by
  unfold orderLinesOn
  split
  · split
    · exact answer_moves _ _ _ h
    · have h1 := answer_moves 2 (some b) .accepted (updateBuild_moves b (Build.addLines (orderLinesOf f.payload)) h)
      simp only
      split
      · exact runArbiter_moves (triggerSweep_moves (reportBuild_moves _ h1))
      · exact h1
  · exact answer_moves _ _ _ h
  · exact h
  all_goals exact answer_moves _ _ _ h

theorem runIfDue_moves (b : BuildId) (h : Moves s t) : Moves s (runIfDue b t) := by
  unfold runIfDue
  split
  · exact runArbiter_moves h
  · exact runArbiter_moves h
  all_goals exact h

theorem acceptCancel_moves (b : BuildId) (h : Moves s t) : Moves s (acceptCancel b t) :=
  runIfDue_moves _ (settleEnding_moves _ (withdrawBatch_moves _ _ (answer_moves _ _ _ (updateBuild_moves _ _ h))))

theorem orderCancelOn_moves (f : Frame) (b : BuildId) (h : Moves s t) : Moves s (orderCancelOn f b t) := by
  unfold orderCancelOn
  simp only
  split
  · exact reportBuild_moves _ (answer_moves _ _ _ (updateBuild_moves _ _ h))
  · split
    · exact acceptCancel_moves _ h
    · exact answer_moves _ _ _ h
  · split
    · exact answer_moves _ _ _ h
    · split
      · exact acceptCancel_moves _ h
      · exact answer_moves _ _ _ h
  · exact answer_moves _ _ _ h
  · exact h
  all_goals exact answer_moves _ _ _ h

theorem buildResumeOn_moves (f : Frame) (b : BuildId) (h : Moves s t) : Moves s (buildResumeOn f b t) := by
  unfold buildResumeOn
  simp only
  split
  · split
    · exact answer_moves _ _ _ h
    · split
      · exact answer_moves _ _ _ h
      · exact runArbiter_moves (updateBuild_moves _ _ (answer_moves _ _ _ h))
  · exact answer_moves _ _ _ h
  · exact h
  all_goals exact answer_moves _ _ _ h

theorem releaseEntries_moves (b : BuildId) (h : Moves s t) : Moves s (releaseEntries b t) := by
  have h1 : Moves s ((strandedEntries b t).foldl (fun t e => dropEntry b e t) (withdrawMovable b .cancelled t)) :=
    foldl_moves _ (fun _ _ e h => dropEntry_moves b e h) _ (withdrawMovable_moves _ _ h)
  unfold releaseEntries
  simp only
  split
  · exact h1
  · exact recompute_moves _ h1

theorem acceptRelease_moves (b : BuildId) (h : Moves s t) : Moves s (acceptRelease b t) :=
  runIfDue_moves _ (settleEnding_moves _ (releaseEntries_moves _ (answer_moves _ _ _ (updateBuild_moves _ _ h))))

theorem buildReleaseOn_moves (f : Frame) (b : BuildId) (h : Moves s t) : Moves s (buildReleaseOn f b t) := by
  unfold buildReleaseOn
  simp only
  split
  · split
    · exact answer_moves _ _ _ h
    · exact acceptRelease_moves _ h
  · split
    · exact answer_moves _ _ _ h
    · exact acceptRelease_moves _ h
  · exact answer_moves _ _ _ h
  · exact h
  all_goals exact answer_moves _ _ _ h

/-! ### Start-up and line clear -/

theorem rollCall_moves (h : Moves s t) : Moves s (rollCall t) :=
  handOn_moves _ _ (fun f u hu => by
    split
    · exact offer_moves _ hu
    · exact hu) h

theorem reportReady_moves (b : BuildId) (h : Moves s t) : Moves s (reportReady b t) := by
  unfold reportReady; split
  · exact reportBuild_moves _ h
  · exact h

theorem readyIfComplete_moves (hs : t.station = .awaitConfig) (h : Moves s t) : Moves s (readyIfComplete t) := by
  unfold readyIfComplete
  simp only
  split
  · refine reportReady_moves _ (reportReady_moves _ (updateBuild_moves _ _ (updateBuild_moves _ _ ?_)))
    have h1 := offer_moves (.ready (t.credits .A) (t.credits .B)) h
    exact ((h1.tail (.ready (by simpa using hs))).tail (.streak 0 (by omega))).tail (.cycles 0 (by omega))
  · exact h

theorem onSetup_moves (n : Nat) (ok : Bool) (take : State → State)
    (ht : ∀ u : State, u.station = .awaitConfig → Moves s u → Moves s (take u) ∧ (take u).station = .awaitConfig)
    (h : Moves s t) : Moves s (onSetup n ok take t) := by
  unfold onSetup
  split
  · exact h
  · rename_i hs
    split
    · obtain ⟨h1, h2⟩ := ht t hs h
      exact readyIfComplete_moves (by simpa [answerSetup] using h2) (answerSetup_moves _ _ h1)
    · exact answerSetup_moves _ _ h
  all_goals exact answerSetup_moves _ _ h

theorem lineSetup_moves (h : Moves s t) : Moves s (lineSetup t) :=
  handOn_moves _ _ (fun f _ hu => onSetup_moves _ _ _ (fun v hv hm =>
    ⟨hm.tail (.setup (some (lineSetupOf f.payload)) v.setup1 v.setup2 hv), hv⟩) hu) h

theorem stationSetup1_moves (h : Moves s t) : Moves s (stationSetup1 t) :=
  handOn_moves _ _ (fun f u hu => by
    simp only
    split
    · exact onSetup_moves _ _ _ (fun v hv hm =>
        ⟨hm.tail (.setup v.lineSetup (some (setup1Of f.payload)) v.setup2 hv), hv⟩) hu
    · exact hu) h

theorem stationSetup2_moves (h : Moves s t) : Moves s (stationSetup2 t) :=
  handOn_moves _ _ (fun f u hu => by
    simp only
    split
    · exact onSetup_moves _ _ _ (fun v hv hm =>
        ⟨hm.tail (.setup v.lineSetup v.setup1 (some (setup2Of f.payload)) hv), hv⟩) hu
    · exact hu) h

theorem clearPrepare_moves (h : Moves s t) : Moves s (clearPrepare t) :=
  handOn_moves _ _ (fun f _ hu => onCommand_moves _ _ (fun v hv => by
    split
    · exact answer_moves _ _ _ hv
    · exact answer_moves _ _ _ (other_moves hv rfl)) hu) h

theorem clearBlocks_moves (h : Moves s t) : Moves s (clearBlocks t) := by
  have h1 : Moves s { emptyTxQueue t with station := stationAfterClear t.station } := by
    have h0 := emptyTxQueue_moves h
    by_cases hs : t.station = .paused ∨ t.station = .stalled
    · have : stationAfterClear t.station = .run := by rcases hs with hs | hs <;> rw [hs] <;> rfl
      rw [this]; exact h0.tail (.return hs)
    · have : stationAfterClear t.station = t.station := by
        cases hst : t.station <;> simp [hst] at hs <;> rfl
      rw [this]; exact h0
  have h2 := (((h1.tail .clearLists).tail (.streak 0 (by omega))).tail (.cycles 0 (by omega))).tail .zero
  exact other_moves h2 rfl

theorem lineClear_moves (h : Moves s t) : Moves s (lineClear t) :=
  runArbiter_moves (reportChange_moves _ _ (reportChange_moves _ _ (answer_moves _ _ _ (clearBlocks_moves h))))

theorem clear_moves (h : Moves s t) : Moves s (clear t) :=
  handOn_moves _ _ (fun f _ hu => onCommand_moves _ _ (fun v hv => by
    split
    · exact answer_moves _ _ _ hv
    · split
      · exact lineClear_moves hv
      · exact answer_moves _ _ _ hv) hu) h

/-! ### Queries -/

theorem answerStatus_moves (c : Bool) (h : Moves s t) : Moves s (answerStatus c t) := by
  have h1 := offer_moves (.status2 t.counters) (offer_moves (.status1 (status1Of t)) h)
  unfold answerStatus
  simp only
  split
  · exact other_moves (h1.tail .zero) rfl
  · exact h1

theorem answerFault_moves (c : Bool) (h : Moves s t) : Moves s (answerFault c t) := by
  have h1 := offer_moves (.faultReport t.fault) h
  unfold answerFault
  simp only
  split
  · exact other_moves h1 rfl
  · exact h1

theorem statusQuery_moves (h : Moves s t) : Moves s (statusQuery t) :=
  handOn_moves _ _ (fun _ _ hu => onCommand_moves _ _ (fun _ hv => answerStatus_moves _ hv) hu) h
theorem faultQuery_moves (h : Moves s t) : Moves s (faultQuery t) :=
  handOn_moves _ _ (fun _ _ hu => onCommand_moves _ _ (fun _ hv => answerFault_moves _ hv) hu) h

theorem runBeaconBlink_moves (h : Moves s t) : Moves s (runBeaconBlink t) := by
  unfold runBeaconBlink; split
  · exact other_moves h rfl
  · exact h

/-! ### The robot port and the timers -/

theorem receiverIdle_moves (h : Moves s t) : Moves s (receiverIdle t) := other_moves h rfl
theorem linkError_moves (h : Moves s t) : Moves s (linkError t) := count_moves _ h

theorem onRecord_moves (k n : Byte) (p : List Byte) (c : Byte) (act : State → State)
    (ha : ∀ u : State, Moves s u → Moves s (act u)) (h : Moves s t) : Moves s (onRecord k n p c act t) := by
  unfold onRecord; split
  · exact ha _ (receiverIdle_moves h)
  · exact linkError_moves (receiverIdle_moves h)

theorem takePlaceDone_moves (f : InFlight) (o : PlaceOutcome) (n : Nat) (h : Moves s t) :
    Moves s (takePlaceDone f o n t) := by
  unfold takePlaceDone
  simp only
  refine runArbiter_moves ?_
  split
  · exact freePort_moves h
  · split
    · exact freePort_moves h
    · exact takeOutcome_moves _ _ _ _ (freePort_moves h)

theorem placeDone_moves (n : Byte) (p : List Byte) (c : Byte) (h : Moves s t) : Moves s (placeDone n p c t) :=
  onRecord_moves _ _ _ _ _ (fun u hu => by
    split
    · exact takePlaceDone_moves _ _ _ hu
    · exact linkError_moves hu) h

theorem endScanFlight_moves (b : BuildId) (h : Moves s t) : Moves s (endScanFlight b t) := updateBuild_moves _ _ h
theorem endSwapFlight_moves (b : BuildId) (h : Moves s t) : Moves s (endSwapFlight b t) := updateBuild_moves _ _ h

theorem takeScanData_moves (f : InFlight) (m : Tiles Nat) (h : Moves s t) : Moves s (takeScanData f m t) := by
  have h1 := endScanFlight_moves f.build (freePort_moves h)
  unfold takeScanData
  simp only
  refine runArbiter_moves (sweepIfStillOpen_moves _ _ ?_)
  split
  · exact h1
  · split
    · exact h1
    · exact scanResult_moves _ _ _ h1

theorem scanData_moves (n : Byte) (p : List Byte) (c : Byte) (h : Moves s t) : Moves s (scanData n p c t) :=
  onRecord_moves _ _ _ _ _ (fun u hu => by
    split
    · exact takeScanData_moves _ _ hu
    · exact linkError_moves hu) h

theorem takeSwapDone_moves (f : InFlight) (h : Moves s t) : Moves s (takeSwapDone f t) := by
  have h1 := endSwapFlight_moves f.build (freePort_moves h)
  unfold takeSwapDone
  simp only
  refine runArbiter_moves ?_
  split
  · exact h1
  · exact reportBuild_moves _ (updateBuild_moves _ _ h1)

theorem swapDone_moves (n : Byte) (p : List Byte) (c : Byte) (h : Moves s t) : Moves s (swapDone n p c t) :=
  onRecord_moves _ _ _ _ _ (fun u hu => by
    split
    · exact takeSwapDone_moves _ hu
    · exact linkError_moves hu) h

theorem robotState_moves (n : Byte) (p : List Byte) (c : Byte) (h : Moves s t) : Moves s (robotState n p c t) :=
  onRecord_moves _ _ _ _ _ (fun u hu => by
    unfold takeRobotState
    simp only
    split
    · exact runArbiter_moves (other_moves hu rfl)
    · exact other_moves hu rfl) h

theorem recordDiscarded_moves (k n : Byte) (p : List Byte) (c : Byte) (h : Moves s t) :
    Moves s (recordDiscarded k n p c t) := by
  unfold recordDiscarded; split
  · exact linkError_moves (receiverIdle_moves h)
  · exact h

theorem recordAbandoned_moves (k n l : Byte) (h : Moves s t) : Moves s (recordAbandoned k n l t) := by
  unfold recordAbandoned; split
  · exact linkError_moves (receiverIdle_moves h)
  · exact h

theorem runGap_moves (g : List Byte) (h : Moves s t) : Moves s (runGap g t) := other_moves h rfl

theorem interByteTimeout_moves (g : List Byte) (h : Moves s t) : Moves s (interByteTimeout g t) := by
  unfold interByteTimeout; split
  · exact linkError_moves (receiverIdle_moves (runGap_moves g h))
  · exact h

theorem expireFlight_moves (f : InFlight) (h : Moves s t) : Moves s (expireFlight f t) :=
  freePort_moves (runTo_moves _ _ h)

theorem placeExpiry_moves (h : Moves s t) : Moves s (placeExpiry t) := by
  unfold placeExpiry
  split
  · exact h
  · rename_i f _
    have h1 := expireFlight_moves f h
    simp only
    refine runArbiter_moves ?_
    split
    · exact h1
    · split
      · exact h1
      · exact streakFailure_moves _ _ (recordFault_moves _ _ _ _ (becomeUncertain_moves _ _ _ h1))

theorem scanTimeout_moves (h : Moves s t) : Moves s (scanTimeout t) := by
  unfold scanTimeout
  split
  · exact h
  · rename_i f _
    have h1 := endScanFlight_moves f.build (expireFlight_moves f h)
    simp only
    refine runArbiter_moves (sweepIfStillOpen_moves _ _ ?_)
    split
    · exact h1
    · split
      · exact h1
      · exact scanExpired_moves _ _ h1

theorem swapTimeout_moves (h : Moves s t) : Moves s (swapTimeout t) := by
  unfold swapTimeout
  split
  · exact h
  · rename_i f _
    have h1 := endSwapFlight_moves f.build (expireFlight_moves f h)
    simp only
    refine runArbiter_moves ?_
    split
    · exact h1
    · exact reportBuild_moves _ (updateBuild_moves _ _ (recordFault_moves _ _ _ _ h1))

theorem pauseTimerExpiry_moves (h : Moves s t) : Moves s (pauseTimerExpiry t) := by
  unfold pauseTimerExpiry
  split
  · exact h
  · rename_i start _
    split
    · rename_i hs
      refine runArbiter_moves (triggerSweep_moves ?_)
      have h1 := runTo_moves start (pauseMs t) h
      have h2 := (h1.tail (.return (.inl (by simpa using hs)))).tail (.streak 0 (by omega))
      exact other_moves h2 rfl
    · exact h

/-! ### Every command -/

/-- A command's meaning ends by showing the beacons: it answers a next state whatever it does. -/
theorem exec_next (c : Instr) (s : State) : ∃ t, exec c s = .next (showBeacons t) := by
  cases c <;> exact ⟨_, rfl⟩

/-- Every command but POWER_ON, RESET and ENCODER_PULSE is a run of moves. -/
theorem exec_moves (c : Instr) (hr : restarts c = false) (hp : c ≠ .encoderPulse) (h : exec c s = .next t) :
    Moves s t := by
  have r : Moves s s := .refl
  cases c <;> simp only [restarts, reduceCtorEq] at hr <;>
    (first | exact absurd rfl hp | skip) <;> injection h with h <;> subst h <;> apply showBeacons_moves
  · exact isRaised_deadline_moves _ r
  · exact closePoint_moves _ r
  · exact eyeWindowEnd_moves _ r
  · exact pickOpenPoint_moves _ r
  · exact pickClosePoint_moves _ r
  · exact eyeEdge_moves r
  · exact eyeCapture_moves r
  · exact frameReception_moves _ _ r
  · exact caseNotice_moves r
  · exact claim_moves r
  · exact miss_moves r
  · exact buildCommand_moves _ _ (fun f b _ hu => orderOpenOn_moves f b hu) r
  · exact buildCommand_moves _ _ (fun f b _ hu => orderLinesOn_moves f b hu) r
  · exact buildCommand_moves _ _ (fun f b _ hu => orderCancelOn_moves f b hu) r
  · exact buildCommand_moves _ _ (fun f b _ hu => buildResumeOn_moves f b hu) r
  · exact buildCommand_moves _ _ (fun f b _ hu => buildReleaseOn_moves f b hu) r
  · exact clearPrepare_moves r
  · exact clear_moves r
  · exact statusQuery_moves r
  · exact faultQuery_moves r
  · exact rollCall_moves r
  · exact lineSetup_moves r
  · exact stationSetup1_moves r
  · exact stationSetup2_moves r
  · exact arbitration_moves _ r
  · exact transmissionComplete_moves r
  · exact transmissionFailure_moves r
  · exact placeDone_moves _ _ _ r
  · exact scanData_moves _ _ _ r
  · exact swapDone_moves _ _ _ r
  · exact robotState_moves _ _ _ r
  · exact interByteTimeout_moves _ r
  · exact placeExpiry_moves r
  · exact scanTimeout_moves r
  · exact swapTimeout_moves r
  · exact pauseTimerExpiry_moves r
  · exact sweepOffer_moves r
  · exact runBeaconBlink_moves r
  · exact recordDiscarded_moves _ _ _ _ r
  · exact recordAbandoned_moves _ _ _ r
  · exact replyReportHelloReady_moves r

end Sys2Proof.Machine
end

