-- ==== Sys2Proof/Laws/Frame.lean ====
section
/-!
SUPPORT. The frame of the plan lists and of the claim unit: their operations write the transmit queue, the positions,
the two lists, the throttle, the sweep, the builds, the fault record and the counters, and nothing else. One lemma for
each operation, so that no proof about another part of the state unfolds a recomputation.
-/
namespace Sys2Proof.Machine

/-- t differs from s in the parts that plan lists and claim unit write, and in nothing else. -/
def PlanFrame (s t : State) : Prop :=
  t = { s with
    txQueue := t.txQueue, positions := t.positions, track := t.track, throttled := t.throttled, throttleSeen
    := t.throttleSeen, sweep := t.sweep, pendingSweep := t.pendingSweep, buildA := t.buildA, buildB :=
    t.buildB, pick := t.pick, fault := t.fault, counters := t.counters }

variable {s t : State}

theorem PlanFrame.refl (s : State) : PlanFrame s s := rfl

/-- An operation that writes only those parts keeps the frame. -/
theorem write_frame {u : State} (h : PlanFrame s t) (e : u = { t with
    txQueue := u.txQueue, positions := u.positions, track := u.track, throttled := u.throttled, throttleSeen
    := u.throttleSeen, sweep := u.sweep, pendingSweep := u.pendingSweep, buildA := u.buildA, buildB :=
    u.buildB, pick := u.pick, fault := u.fault, counters := u.counters }) : PlanFrame s u := by
  unfold PlanFrame at h ⊢
  rw [e, h]

theorem PlanFrame.trans {u : State} (h : PlanFrame s t) (k : PlanFrame t u) : PlanFrame s u := write_frame h k

/-! ### What the frame leaves unchanged -/

theorem PlanFrame.rxBuffer (h : PlanFrame s t) : t.rxBuffer = s.rxBuffer := by rw [h]
theorem PlanFrame.ctx (h : PlanFrame s t) : t.ctx = s.ctx := by rw [h]
theorem PlanFrame.ownSent (h : PlanFrame s t) : t.ownSent = s.ownSent := by rw [h]
theorem PlanFrame.belt (h : PlanFrame s t) : t.belt = s.belt := by rw [h]
theorem PlanFrame.eyeLatch (h : PlanFrame s t) : t.eyeLatch = s.eyeLatch := by rw [h]
theorem PlanFrame.inFlight (h : PlanFrame s t) : t.inFlight = s.inFlight := by rw [h]
theorem PlanFrame.seqCounter (h : PlanFrame s t) : t.seqCounter = s.seqCounter := by rw [h]
theorem PlanFrame.robotReady (h : PlanFrame s t) : t.robotReady = s.robotReady := by rw [h]
theorem PlanFrame.receiver (h : PlanFrame s t) : t.receiver = s.receiver := by rw [h]
theorem PlanFrame.urx (h : PlanFrame s t) : t.urx = s.urx := by rw [h]
theorem PlanFrame.utx (h : PlanFrame s t) : t.utx = s.utx := by rw [h]
theorem PlanFrame.streak (h : PlanFrame s t) : t.streak = s.streak := by rw [h]
theorem PlanFrame.cycles (h : PlanFrame s t) : t.cycles = s.cycles := by rw [h]
theorem PlanFrame.pauseTimer (h : PlanFrame s t) : t.pauseTimer = s.pauseTimer := by rw [h]
theorem PlanFrame.station (h : PlanFrame s t) : t.station = s.station := by rw [h]
theorem PlanFrame.stationNumber (h : PlanFrame s t) : t.stationNumber = s.stationNumber := by rw [h]
theorem PlanFrame.lineSetup (h : PlanFrame s t) : t.lineSetup = s.lineSetup := by rw [h]
theorem PlanFrame.setup1 (h : PlanFrame s t) : t.setup1 = s.setup1 := by rw [h]
theorem PlanFrame.setup2 (h : PlanFrame s t) : t.setup2 = s.setup2 := by rw [h]
theorem PlanFrame.pairing (h : PlanFrame s t) : t.pairing = s.pairing := by rw [h]
theorem PlanFrame.beacons (h : PlanFrame s t) : t.beacons = s.beacons := by rw [h]
theorem PlanFrame.timeBase (h : PlanFrame s t) : t.timeBase = s.timeBase := by rw [h]
theorem PlanFrame.pending (h : PlanFrame s t) : t.pending = s.pending := by rw [h]

/-- A fold of operations that keep the frame keeps it. -/
theorem foldl_frame {α : Type} (f : State → α → State) (hf : ∀ s t a, PlanFrame s t → PlanFrame s (f t a)) (l : List α)
    {s t : State} (h : PlanFrame s t) : PlanFrame s (l.foldl f t) := by
  induction l generalizing t with
  | nil => exact h
  | cons a l ih => exact ih (hf s t a h)

/-! ### The operations of Machine/Ops.lean -/

theorem triggerSweep_frame (h : PlanFrame s t) : PlanFrame s (triggerSweep t) := write_frame h rfl
theorem setPhase_frame (tag : Tag) (p : PickPhase) (h : PlanFrame s t) : PlanFrame s (setPhase tag p t) :=
  write_frame h rfl
theorem updateBuild_frame (b : BuildId) (f : Build → Build) (h : PlanFrame s t) : PlanFrame s (updateBuild b f t) :=
  write_frame h (by cases b <;> rfl)
theorem recordFault_frame (c : FaultCause) (v : Severity) (b : Option BuildId) (tag : Option Tag)
    (h : PlanFrame s t) : PlanFrame s (recordFault c v b tag t) := write_frame h rfl
theorem count_frame (c : CounterName) (h : PlanFrame s t) : PlanFrame s (count c t) := write_frame h rfl
theorem register_frame (k : PosKind) (tag : Tag) (v : Count) (h : PlanFrame s t) : PlanFrame s (register k tag v t) :=
  write_frame h rfl
theorem unregister_frame (k : PosKind) (tag : Tag) (h : PlanFrame s t) : PlanFrame s (unregister k tag t) :=
  write_frame h rfl
theorem unregisterPick_frame (tag : Tag) (h : PlanFrame s t) : PlanFrame s (unregisterPick tag t) := write_frame h rfl
theorem offer_frame (b : TxBody) (h : PlanFrame s t) : PlanFrame s (offer b t) := write_frame h rfl
theorem abortClaim_frame (tag : Tag) (h : PlanFrame s t) : PlanFrame s (abortClaim tag t) := write_frame h rfl
theorem updateRecord_frame (tag : Tag) (f : TrackRecord → TrackRecord) (h : PlanFrame s t) :
    PlanFrame s (updateRecord tag f t) := write_frame h rfl
theorem removeRecord_frame (tag : Tag) (h : PlanFrame s t) : PlanFrame s (removeRecord tag t) := write_frame h rfl

theorem throttleAtJoin_frame (h : PlanFrame s t) : PlanFrame s (throttleAtJoin t) := by
  unfold throttleAtJoin; split
  · exact write_frame h rfl
  · exact h

theorem throttleAtLeave_frame (h : PlanFrame s t) : PlanFrame s (throttleAtLeave t) := by
  unfold throttleAtLeave; split
  · exact triggerSweep_frame (write_frame h rfl)
  · exact h

theorem joinPick_frame (tag : Tag) (b : BuildId) (c : Count) (h : PlanFrame s t) : PlanFrame s (joinPick tag b c t) :=
  throttleAtJoin_frame (register_frame _ _ _ (write_frame h rfl))

theorem leavePick_frame (tag : Tag) (h : PlanFrame s t) : PlanFrame s (leavePick tag t) := by
  unfold leavePick; split
  · exact throttleAtLeave_frame (unregisterPick_frame _ (write_frame h rfl))
  · exact h

/-! ### The operations of Machine/Plan.lean -/

theorem reportBuild_frame (b : BuildId) (h : PlanFrame s t) : PlanFrame s (reportBuild b t) := offer_frame _ h
theorem palletDone_frame (b : BuildId) (v : Bool) (h : PlanFrame s t) : PlanFrame s (palletDone b v t) := offer_frame _ h

theorem toUnbid_frame (tag : Tag) (h : PlanFrame s t) : PlanFrame s (updateRecord tag TrackRecord.toUnbid t) :=
  updateRecord_frame _ _ h

theorem unbackRecord_frame (tag : Tag) (h : PlanFrame s t) : PlanFrame s (unbackRecord tag t) := by
  unfold unbackRecord
  repeat' split
  · exact h
  · exact updateRecord_frame _ _ h
  · exact abortClaim_frame _ (updateRecord_frame _ _ h)
  · exact toUnbid_frame _ (abortClaim_frame _ h)
  all_goals exact h

theorem takeOut_frame (b : BuildId) (e : PlanEntry) (h : PlanFrame s t) : PlanFrame s (takeOut b e t) :=
  triggerSweep_frame (updateBuild_frame _ _ h)

theorem withdrawEntry_frame (b : BuildId) (m : MissReason) (e : PlanEntry) (h : PlanFrame s t) :
    PlanFrame s (withdrawEntry b m e t) := by
  unfold withdrawEntry; split
  · exact unbackRecord_frame _ (takeOut_frame _ _ h)
  · exact offer_frame _ (leavePick_frame _ (takeOut_frame _ _ h))
  · exact offer_frame _ (leavePick_frame _ (takeOut_frame _ _ h))

theorem dropEntry_frame (b : BuildId) (e : PlanEntry) (h : PlanFrame s t) : PlanFrame s (dropEntry b e t) :=
  leavePick_frame _ (takeOut_frame _ _ h)

theorem walkEntry_frame (b : BuildId) (f : Bool) (e : PlanEntry) (h : PlanFrame s t) :
    PlanFrame s (walkEntry b (t, f) e).1 := by
  unfold walkEntry; split
  · exact updateBuild_frame b (fun x => { x with planned := x.planned.apply e.foot e.h e.weight e.rating }) h
  · exact withdrawEntry_frame _ _ _ h

theorem walk_frame (b : BuildId) (l : List PlanEntry) (f : Bool) (h : PlanFrame s t) :
    PlanFrame s (l.foldl (walkEntry b) (t, f)).1 := by
  induction l generalizing t f with
  | nil => exact h
  | cons e l ih => exact ih (walkEntry b (t, f) e).2 (walkEntry_frame b f e h)

theorem recompute_frame (b : BuildId) (h : PlanFrame s t) : PlanFrame s (recompute b t) := by
  have hw := walk_frame b (t.build b).plan false
    (updateBuild_frame b (fun x => { x with planned := x.built }) h)
  unfold recompute
  simp only
  split
  · exact triggerSweep_frame hw
  · exact hw

theorem withdrawAlone_frame (b : BuildId) (m : MissReason) (e : PlanEntry) (h : PlanFrame s t) :
    PlanFrame s (withdrawAlone b m e t) := recompute_frame _ (withdrawEntry_frame _ _ _ h)

theorem withdrawMovable_frame (b : BuildId) (m : MissReason) (h : PlanFrame s t) : PlanFrame s (withdrawMovable b m t) :=
  foldl_frame _ (fun _ _ e h => withdrawEntry_frame b m e h) _ h

theorem withdrawBatch_frame (b : BuildId) (m : MissReason) (h : PlanFrame s t) : PlanFrame s (withdrawBatch b m t) := by
  unfold withdrawBatch; split
  · exact h
  · exact recompute_frame _ (withdrawMovable_frame _ _ h)

theorem enterHeld_frame (b : BuildId) (o : HoldOrigin) (h : PlanFrame s t) : PlanFrame s (enterHeld b o t) := by
  unfold enterHeld; split
  · exact h
  · exact reportBuild_frame _ (withdrawBatch_frame _ _ (updateBuild_frame _ _ h))

theorem settleEnding_frame (b : BuildId) (h : PlanFrame s t) : PlanFrame s (settleEnding b t) := by
  unfold settleEnding; simp only; split
  · split
    · exact h
    · exact reportBuild_frame _ (updateBuild_frame _ _ h)
    · exact reportBuild_frame _ (updateBuild_frame _ _ (palletDone_frame _ _ h))
  · exact h

theorem overload_frame (b : BuildId) (tag : Tag) (h : PlanFrame s t) : PlanFrame s (overload b tag t) := by
  unfold overload; simp only; split
  · exact recordFault_frame _ _ _ _ h
  · exact withdrawMovable_frame _ _ (updateBuild_frame _ _ (recordFault_frame _ _ _ _ h))

theorem applyAndHold_frame (b : BuildId) (e : PlanEntry) (w : Nat) (h : PlanFrame s t) : PlanFrame s (applyAndHold b e w t) := by
  unfold applyAndHold; split
  · exact overload_frame _ _ (updateBuild_frame _ _ h)
  · exact updateBuild_frame _ _ h

theorem completeIfDone_frame (b : BuildId) (h : PlanFrame s t) : PlanFrame s (completeIfDone b t) := by
  unfold completeIfDone; split
  · exact updateBuild_frame _ _ h
  · exact h

theorem reportChange_frame (b : BuildId) (st : BuildState) (h : PlanFrame s t) : PlanFrame s (reportChange b st t) := by
  unfold reportChange; split
  · exact h
  · exact reportBuild_frame _ h

theorem takePlaced_frame (b : BuildId) (e : PlanEntry) (w : Nat) (h : PlanFrame s t) : PlanFrame s (takePlaced b e w t) :=
  settleEnding_frame _ (reportChange_frame _ _ (recompute_frame _ (completeIfDone_frame _
    (leavePick_frame _ (triggerSweep_frame (updateBuild_frame _ _ (applyAndHold_frame _ _ _ h)))))))

/-! ### The operations of Machine/Claims.lean -/

theorem bid_frame (r : TrackRecord) (c : Candidate) (h : PlanFrame s t) : PlanFrame s (bid r c t) :=
  updateRecord_frame _ _ (write_frame (updateBuild_frame _ _ h) rfl)

theorem evaluate_frame (r : TrackRecord) (h : PlanFrame s t) : PlanFrame s (evaluate r t) := by
  unfold evaluate
  split
  · split
    · exact h
    · split
      · exact bid_frame _ _ h
      · exact h
  · exact h

theorem removeContested_frame (b : BuildId) (tag : Tag) (h : PlanFrame s t) : PlanFrame s (removeContested b tag t) := by
  unfold removeContested; split
  · exact h
  · exact recompute_frame _ (takeOut_frame _ _ h)

theorem removeBidEntry_frame (r : TrackRecord) (h : PlanFrame s t) : PlanFrame s (removeBidEntry r t) := by
  unfold removeBidEntry; split
  · exact h
  · exact removeContested_frame _ _ h

theorem loseClaim_frame (r : TrackRecord) (h : PlanFrame s t) : PlanFrame s (loseClaim r t) := by
  unfold loseClaim
  refine count_frame _ ?_
  have h1 := removeBidEntry_frame r
    (updateRecord_frame r.tag (fun r => { r.dropEntryRef with state := .lost }) h)
  split
  · exact abortClaim_frame _ h1
  · exact h1

theorem hear_frame (tag : Tag) (c : Heard) (h : PlanFrame s t) : PlanFrame s (updateRecord tag (TrackRecord.hear c) t) :=
  updateRecord_frame _ _ h

theorem hearClaim_frame (tag : Tag) (c : Heard) (h : PlanFrame s t) : PlanFrame s (hearClaim tag c t) := by
  unfold hearClaim
  split
  · exact h
  · split
    · simp only
      split
      · exact loseClaim_frame _ (hear_frame _ _ h)
      · exact hear_frame _ _ h
    · exact h

theorem takeDeadline_frame (tag : Tag) (h : PlanFrame s t) : PlanFrame s (takeDeadline tag t) := by
  have h1 := updateRecord_frame tag (fun r => { r with deadlinePassed := true })
    (unregister_frame .sendDeadline tag h)
  unfold takeDeadline
  simp only
  split
  · exact h1
  · split
    · split
      · exact abortClaim_frame _ h1
      · exact removeBidEntry_frame _ (toUnbid_frame _ (abortClaim_frame _ h1))
    · exact h1

theorem abortAllClaims_frame (h : PlanFrame s t) : PlanFrame s (abortAllClaims t) := write_frame h rfl

theorem takeOutAborted_frame (b : BuildId) (tags : List Tag) (h : PlanFrame s t) : PlanFrame s (takeOutAborted b tags t) :=
  foldl_frame _ (fun _ _ e h => toUnbid_frame e.tag (takeOut_frame b e h)) _ h

theorem recomputeIf_frame (f : Bool) (b : BuildId) (h : PlanFrame s t) : PlanFrame s (recomputeIf f b t) := by
  unfold recomputeIf; split
  · exact recompute_frame _ h
  · exact h

theorem leaveRun_frame (h : PlanFrame s t) : PlanFrame s (leaveRun t) :=
  recomputeIf_frame _ _ (recomputeIf_frame _ _
    (takeOutAborted_frame _ _ (takeOutAborted_frame _ _ (abortAllClaims_frame h))))

theorem winCase_frame (r : TrackRecord) (b : BuildId) (h : PlanFrame s t) : PlanFrame s (winCase r b t) :=
  joinPick_frame _ _ _ (updateBuild_frame _ _ h)

theorem freshPlacement_frame (r : TrackRecord) (b : BuildId) (h : PlanFrame s t) : PlanFrame s (freshPlacement r b t) := by
  unfold freshPlacement; simp only; split
  · exact joinPick_frame _ _ _ (updateBuild_frame _ _ h)
  · exact count_frame _ (offer_frame _ h)

theorem closeDecision_frame (r : TrackRecord) (h : PlanFrame s t) : PlanFrame s (closeDecision r t) := by
  unfold closeDecision
  split
  · exact h
  · exact h
  · exact removeBidEntry_frame _ (abortClaim_frame _ h)
  · exact h
  · split
    · exact count_frame _ (removeBidEntry_frame _ h)
    · exact winCase_frame _ _ h
  · exact h
  · split
    · exact h
    · exact freshPlacement_frame _ _ h

end Sys2Proof.Machine
end

