-- ==== Sys2Proof/Laws/Grid.lean ====
section
/-!
SUPPORT. What the placement arithmetic says tile by tile: which tiles a footprint covers, its base, the checks of the
candidate test and of the recomputation walk, the anchors of an orientation (R65 to R76, R90); and what a build offers:
eligibility, the demand match and the deck reserve (R18, R49, R50).
-/
namespace Sys2Proof.Machine

/-! ### Footprints and their base (R65, R66, R68) -/

/-- The tiles that a footprint covers (R65). -/
theorem covers_iff (f : Footprint) (i : Fin 24) : covers f i = true ↔ InFootprint f i := by
  simp [covers, InFootprint, and_assoc]

/-- The tiles of a footprint are those it covers (R65). -/
theorem mem_tilesOf (f : Footprint) (i : Fin 24) : i ∈ tilesOf f ↔ InFootprint f i := by
  simp [tilesOf, covers_iff]

/-- The fold that finds a base is at most a bound when its start and every height are. -/
theorem foldl_max_le (h : Tiles Nat) (l : List (Fin 24)) (m n : Nat) :
    l.foldl (fun a t => max a h[t]) m ≤ n ↔ m ≤ n ∧ ∀ i ∈ l, h[i] ≤ n := by
  induction l generalizing m with
  | nil => simp
  | cons a l ih =>
    rw [List.foldl_cons, ih]
    simp only [Nat.max_le, List.forall_mem_cons, and_assoc]

/-- The base is at most a height when every tile of the footprint is (R68). -/
theorem baseOver_le (h : Tiles Nat) (f : Footprint) (n : Nat) :
    baseOver h f ≤ n ↔ ∀ i : Fin 24, InFootprint f i → h[i] ≤ n := by
  rw [baseOver, foldl_max_le]
  simp only [mem_tilesOf, Nat.zero_le, true_and]

/-- The base is the greatest height of a footprint's tiles (R68). -/
theorem baseOver_eq {h : Tiles Nat} {f : Footprint} {b : Nat} (hle : ∀ i : Fin 24, InFootprint f i → h[i] ≤ b)
    (hex : ∃ i : Fin 24, InFootprint f i ∧ h[i] = b) : baseOver h f = b := by
  obtain ⟨i, hi, rfl⟩ := hex
  exact Nat.le_antisymm ((baseOver_le h f _).mpr hle) ((baseOver_le h f _).mp le_rfl i hi)

/-- The anchors of an orientation are those whose footprint lies on the deck (R66). -/
theorem mem_anchors {fx fy : Nat} (hx : 1 ≤ fx) (hy : 1 ≤ fy) (f : Footprint) :
    f ∈ anchors fx fy ↔ f.fx = fx ∧ f.fy = fy ∧ f.col + fx ≤ 6 ∧ f.row + fy ≤ 4 := by
  obtain ⟨col, row, gx, gy⟩ := f
  simp only [anchors, List.mem_filterMap, List.mem_range, Option.ite_none_right_eq_some, Option.some.injEq,
    Footprint.mk.injEq]
  constructor
  · rintro ⟨t, -, ⟨h1, h2⟩, rfl, rfl, rfl, rfl⟩
    exact ⟨rfl, rfl, h1, h2⟩
  · rintro ⟨rfl, rfl, h1, h2⟩
    refine ⟨row * 6 + col, by omega, ⟨?_, ?_⟩, ?_, ?_, rfl, rfl⟩ <;> omega

/-! ### The checks (R69 to R75) -/

/-- The support check (R69). -/
theorem supported_iff (h : Tiles Nat) (f : Footprint) (base tol : Nat) :
    supported h f base tol = true ↔ ∀ i : Fin 24, InFootprint f i → base ≤ h[i] + tol := by
  simp [supported, mem_tilesOf]

/-- The BASE check (R70). -/
theorem baseCheck_iff (c : CaseLoad) (base : Nat) : baseCheck c base = true ↔ (c.base = true → base = 0) := by
  cases hb : c.base <;> simp [baseCheck, hb]

/-- A reserved column (R50). -/
theorem reservedColumn_iff (o : OrderHeader) (col : Nat) :
    reservedColumn o col = true ↔ if o.reserveRight = true then 6 - o.reserve ≤ col else col < o.reserve := by
  unfold reservedColumn
  split <;> simp

/-- The load check (R73). -/
theorem loadCheck_iff (s : Surface) (weight : Nat) (f : Footprint) :
    loadCheck s weight f = true ↔ ∀ i : Fin 24, InFootprint f i → shareOf weight f.tiles ≤ s.margin[i] := by
  simp [loadCheck, mem_tilesOf]

/-- The reserve check fails for a case without the BASE flag that comes to rest on a reserved column of the deck while the
reserve is active (R71). -/
theorem reserveCheck_iff (active : Bool) (o : OrderHeader) (c : CaseLoad) (base : Nat) (f : Footprint) :
    reserveCheck active o c base f = true ↔
      ¬ (active = true ∧ c.base = false ∧ base = 0 ∧ ∃ i : Fin 24, InFootprint f i ∧
        if o.reserveRight = true then 6 - o.reserve ≤ i.val % 6 else i.val % 6 < o.reserve) := by
  rw [reserveCheck, Bool.not_eq_true', ← Bool.not_eq_true]
  apply not_congr
  simp only [Bool.and_eq_true, beq_iff_eq, Bool.not_eq_true', List.any_eq_true, mem_tilesOf, reservedColumn_iff,
    and_assoc]

/-- A magnitude is at most a bound when the number lies between the bound and its negative. -/
theorem natAbs_le_iff (a : Int) (n : Nat) : a.natAbs ≤ n ↔ -(n : Int) ≤ a ∧ a ≤ n := by omega

/-- The centre-of-gravity check passes below the floor, and otherwise with both moments within their limits (R75). -/
theorem cogCheck_iff (v : LineSetup) (s : Surface) (w : Nat) (f : Footprint) :
    cogCheck v s w f = true ↔ s.weight + w < v.cogFloor * 10 ∨
      (-((v.limX * (s.weight + w) : Nat) : Int) ≤ s.mx + w * (f.xc - 600) ∧
        s.mx + w * (f.xc - 600) ≤ (v.limX * (s.weight + w) : Nat)) ∧
      -((v.limY * (s.weight + w) : Nat) : Int) ≤ s.my + w * (f.yc - 400) ∧
        s.my + w * (f.yc - 400) ≤ (v.limY * (s.weight + w) : Nat) := by
  simp only [cogCheck, Bool.or_eq_true, Bool.and_eq_true, decide_eq_true_eq, natAbs_le_iff]

/-- The test of the walk on a build is that of R90 on its planned surface, under its order's height limit. -/
theorem standsInWalk_iff (v : LineSetup) (x : Build) (e : PlanEntry) :
    standsInWalk v x e = true ↔ StandsOn v ((x.order.map OrderHeader.heightLimit).getD 0) x.planned e := by
  simp only [standsInWalk, standingChecks, heightCheck, weightCheck, cogCheck, Bool.and_eq_true, Bool.or_eq_true,
    beq_iff_eq, decide_eq_true_eq, supported_iff, loadCheck_iff, and_assoc]
  rfl

/-! ### What a build offers (R18, R49, R50) -/

/-- A build is eligible under the conditions of R18. -/
theorem eligible_iff (s : State) (b : BuildId) : eligible s b = true ↔ EligibleToBid s b := by
  simp only [eligible, Bool.and_eq_true, beq_iff_eq, Option.isNone_iff_eq_none, decide_eq_true_eq, and_assoc]
  cases b <;> rfl

/-- The open count of a line is above 0 when planned and placed together are below ordered (R47). -/
theorem openCount_pos (l : DemandLine) : 0 < l.openCount ↔ l.planned + l.placed < l.ordered := by
  unfold DemandLine.openCount
  omega

/-- The demand match finds the lowest-index line for the article with an open count, on a build with an order and no
ending (R49). -/
theorem demandMatch_iff (x : Build) (article i : Nat) :
    demandMatch x article = some i ↔ x.order.isSome = true ∧ x.ending = .noEnding ∧
      ∃ l, x.lines[i]? = some l ∧ l.article = article ∧ 0 < l.openCount ∧
        ∀ (j : Nat) (m : DemandLine), j < i → x.lines[j]? = some m → m.article = article → ¬ 0 < m.openCount := by
  unfold demandMatch
  split
  · rename_i h
    simp only [Bool.and_eq_true, beq_iff_eq] at h
    rw [List.findIdx?_eq_some_iff_getElem]
    simp only [h, true_and, Bool.and_eq_true, beq_iff_eq, decide_eq_true_eq]
    constructor
    · rintro ⟨hi, ⟨ha, ho⟩, hj⟩
      refine ⟨x.lines[i], List.getElem?_eq_getElem hi, ha, ho, fun j m hji hm hma hmo => ?_⟩
      obtain ⟨hl, rfl⟩ := List.getElem?_eq_some_iff.mp hm
      exact hj j hji ⟨hma, hmo⟩
    · rintro ⟨l, hl, ha, ho, hj⟩
      obtain ⟨hi, rfl⟩ := List.getElem?_eq_some_iff.mp hl
      exact ⟨hi, ⟨ha, ho⟩, fun j hji hm =>
        hj j _ hji (List.getElem?_eq_getElem (Nat.lt_trans hji hi)) hm.1 hm.2⟩
  · rename_i h
    simp only [Bool.and_eq_true, beq_iff_eq] at h
    simp only [reduceCtorEq, false_iff]
    rintro ⟨h1, h2, -⟩
    exact h ⟨h1, h2⟩

/-- The deck reserve of a held order is active while a BASE line is open (R50). -/
theorem reserveActive_iff (x : Build) (o : OrderHeader) (h : x.order = some o) :
    reserveActive x = true ↔ 0 < o.reserve ∧ ∃ m ∈ x.lines, m.base = true ∧ m.planned + m.placed < m.ordered := by
  simp [reserveActive, h, openCount_pos]

end Sys2Proof.Machine
end

