-- ==== Sys2Proof/Laws/Withdraw.lean ====
section
/-!
SUPPORT. What a withdrawal and a recomputation can do, said once (R86 to R91): the relation Withdraws b, which every
operation that takes entries out of the plan list of build b keeps.
-/
namespace Sys2Proof.Machine

/-- Entries of build b may have been withdrawn on the way from s to t: nothing outside the plan lists and the claim
unit changes, the other build is untouched, the build keeps all but its plan list, its planned surface and its planned
counts, lists only lose members, frames other than claims stay held, no claim is added, and a record that is neither
QUEUED nor SENT stays as it is. -/
structure Withdraws (b : BuildId) (s t : State) : Prop where
  frame : PlanFrame s t
  other : ∀ c, c ≠ b → t.build c = s.build c
  same : t.build b =
    { s.build b with planned := (t.build b).planned, plan := (t.build b).plan, lines := (t.build b).lines }
  plan : (t.build b).plan.Sublist (s.build b).plan
  pick : t.pick.Sublist s.pick
  tags : t.track.map TrackRecord.tag = s.track.map TrackRecord.tag
  kept : ∀ f ∈ s.txQueue, f.isClaim = false → f ∈ t.txQueue
  counters : t.counters = { s.counters with txDrop := t.counters.txDrop }
  fault : t.fault = s.fault
  seen : t.throttleSeen = s.throttleSeen
  sweep : s.sweep.isSome = true → t.sweep.isSome = true
  positions : t.positions.Sublist s.positions
  placed : (t.build b).lines.map DemandLine.placed = (s.build b).lines.map DemandLine.placed
  claims : ∀ f ∈ t.txQueue, f.isClaim = true →
    ∃ g ∈ s.txQueue, f.body = g.body ∧ f.linked = g.linked ∧ f.inTransmission = g.inTransmission
  records : ∀ tag r, findRecord tag s = some r → r.state ≠ .queued → r.state ≠ .sent → findRecord tag t = some r

theorem Withdraws.refl (b : BuildId) (s : State) : Withdraws b s s :=
  ⟨.refl s, fun _ _ => rfl, rfl, .refl _, .refl _, rfl, fun _ h _ => h, rfl, rfl, rfl, id, .refl _, rfl,
    fun f h _ => ⟨f, h, rfl, rfl, rfl⟩, fun _ _ h _ _ => h⟩

theorem Withdraws.trans {b : BuildId} {s t u : State} (h : Withdraws b s t) (k : Withdraws b t u) : Withdraws b s u where
  frame := h.frame.trans k.frame
  other c hc := by rw [k.other c hc, h.other c hc]
  same := by rw [k.same, h.same]
  plan := k.plan.trans h.plan
  pick := k.pick.trans h.pick
  tags := by rw [k.tags, h.tags]
  kept f hf hc := k.kept f (h.kept f hf hc) hc
  counters := by rw [k.counters, h.counters]
  fault := by rw [k.fault, h.fault]
  seen := by rw [k.seen, h.seen]
  sweep hs := k.sweep (h.sweep hs)
  positions := k.positions.trans h.positions
  placed := by rw [k.placed, h.placed]
  claims f hf hc := by
    obtain ⟨g, hg, h1, h2, h3⟩ := k.claims f hf hc
    obtain ⟨x, hx, k1, k2, k3⟩ := h.claims g hg (by unfold TxFrame.isClaim at hc ⊢; rwa [← h1])
    exact ⟨x, hx, h1.trans k1, h2.trans k2, h3.trans k3⟩
  records tag r hr hq hs := k.records tag r (h.records tag r hr hq hs) hq hs

variable {b : BuildId} {s t : State}

/-- An operation of the build's own lists that touches no other list. -/
theorem updateBuild_withdraws (f : Build → Build) (hf : ∀ x : Build,
      f x = { x with planned := (f x).planned, plan := (f x).plan, lines := (f x).lines } ∧
        (f x).plan.Sublist x.plan ∧ (f x).lines.map DemandLine.placed = x.lines.map DemandLine.placed) :
    Withdraws b s (updateBuild b f s) where
  frame := updateBuild_frame b f (.refl s)
  other c hc := updateBuild_build_other s b c f hc
  same := by rw [updateBuild_build_same]; exact (hf _).1
  plan := by rw [updateBuild_build_same]; exact (hf _).2.1
  pick := by simp
  tags := by simp
  kept _ h _ := by simpa using h
  counters := by simp
  fault := by simp
  seen := by simp
  sweep := by simp
  positions := by simp
  placed := by rw [updateBuild_build_same]; exact (hf _).2.2
  claims f h _ := ⟨f, by simpa using h, rfl, rfl, rfl⟩
  records _ _ h _ _ := by simpa [findRecord] using h

theorem triggerSweep_withdraws : Withdraws b s (triggerSweep s) where
  frame := triggerSweep_frame (.refl s)
  other c _ := by simp
  same := by simp
  plan := by simp
  pick := by simp
  tags := by simp
  kept _ h _ := by simpa using h
  counters := by simp
  fault := by simp
  seen := by simp
  sweep := by simp
  positions := by simp
  placed := by simp
  claims f h _ := ⟨f, by simpa using h, rfl, rfl, rfl⟩
  records _ _ h _ _ := by simpa [findRecord] using h

theorem updateRecord_withdraws (tag : Tag) (f : TrackRecord → TrackRecord) (hf : ∀ r, (f r).tag = r.tag)
    (hs : ∀ r, findRecord tag s = some r → r.state = .queued ∨ r.state = .sent) :
    Withdraws b s (updateRecord tag f s) where
  frame := updateRecord_frame tag f (.refl s)
  other c _ := by simp
  same := by simp
  plan := by simp
  pick := by simp
  tags := by
    simp only [updateRecord_track, List.map_map]
    congr 1; funext r; simp only [Function.comp]; split <;> simp [hf]
  kept _ h _ := by simpa using h
  counters := by simp
  fault := by simp
  seen := by simp
  sweep := by simp
  positions := by simp
  placed := by simp
  claims f h _ := ⟨f, by simpa using h, rfl, rfl, rfl⟩
  records t r h hq hn := by
    by_cases e : t = tag
    · subst e
      rcases hs r h with h' | h'
      · exact absurd h' hq
      · exact absurd h' hn
    · rw [findRecord_updateRecord_other _ _ _ hf e]; exact h

theorem abortClaim_withdraws (tag : Tag) : Withdraws b s (abortClaim tag s) where
  frame := abortClaim_frame tag (.refl s)
  other c _ := by simp
  same := by simp
  plan := by simp
  pick := by simp
  tags := by simp
  kept f h hc := mem_abortClaim_of_not_claim tag f hc h
  counters := by simp
  fault := by simp
  seen := by simp
  sweep := by simp
  positions := by simp
  placed := by simp
  claims f h _ := by
    simp only [abortClaim, List.mem_map, List.mem_filter] at h
    obtain ⟨g, ⟨hg, _⟩, rfl⟩ := h
    exact ⟨g, hg, by split <;> simp⟩
  records _ _ h _ _ := by simpa [findRecord] using h

theorem offer_withdraws (body : TxBody) (hb : (TxFrame.fresh body).isClaim = false) :
    Withdraws b s (offer body s) where
  frame := offer_frame body (.refl s)
  other c _ := by simp
  same := by simp
  plan := by simp
  pick := by simp
  tags := by simp
  kept f h _ := mem_offer body f h
  counters := by simp only [offer]; split <;> rfl
  fault := by simp
  seen := by simp
  sweep := by simp
  positions := by simp
  placed := by simp
  claims f h hc := by
    rcases offer_mem body f h with h | rfl
    · exact ⟨f, h, rfl, rfl, rfl⟩
    · exact absurd hc (by simpa [TxFrame.fresh] using hb)
  records _ _ h _ _ := by simpa [findRecord] using h

theorem leavePick_withdraws (tag : Tag) : Withdraws b s (leavePick tag s) where
  frame := leavePick_frame tag (.refl s)
  other c _ := by simp
  same := by simp
  plan := by simp
  pick := by
    unfold leavePick; split
    · unfold throttleAtLeave; split <;> exact List.filter_sublist
    · exact .refl _
  tags := by simp
  kept _ h _ := by simpa using h
  counters := by simp
  fault := by simp
  seen := by simp
  sweep h := by
    unfold leavePick; split
    · unfold throttleAtLeave; split
      · simp
      · exact h
    · exact h
  positions := by
    unfold leavePick; split
    · unfold throttleAtLeave; split <;> exact List.filter_sublist
    · exact .refl _
  placed := by simp
  claims f h _ := ⟨f, by simpa using h, rfl, rfl, rfl⟩
  records _ _ h _ _ := by simpa [findRecord] using h

/-! ### The operations that take entries out -/

/-- A change of a line that keeps its placed count keeps the list of placed counts. -/
theorem modify_placed (l : List DemandLine) (i : Nat) (f : DemandLine → DemandLine) (hf : ∀ x, (f x).placed = x.placed) :
    (l.modify i f).map DemandLine.placed = l.map DemandLine.placed := by
  induction l generalizing i with
  | nil => simp
  | cons a l ih => cases i <;> simp [List.modify_succ_cons, hf, ih]

theorem takeOut_withdraws (e : PlanEntry) : Withdraws b s (takeOut b e s) :=
  .trans (updateBuild_withdraws _ (fun _ => ⟨rfl, List.filter_sublist, modify_placed _ e.line DemandLine.unplan (fun _ => rfl)⟩))
    triggerSweep_withdraws

theorem unbackRecord_withdraws (tag : Tag) : Withdraws b s (unbackRecord tag s) := by
  unfold unbackRecord
  split
  · exact .refl _ _
  · rename_i r hr
    have hq : r.state = .queued ∨ r.state = .sent →
        ∀ x, findRecord tag s = some x → x.state = .queued ∨ x.state = .sent := by
      intro h x hx; rw [hr] at hx; cases hx; exact h
    split
    · rename_i h; exact updateRecord_withdraws _ _ (fun _ => rfl) (hq (.inr h))
    · rename_i h
      split
      · exact .trans (updateRecord_withdraws tag (fun r => { r.dropEntryRef with state := .unbacked }) (fun _ => rfl)
          (hq (.inl h))) (abortClaim_withdraws _)
      · exact .trans (abortClaim_withdraws tag) (updateRecord_withdraws _ _ (fun _ => rfl)
          (fun x hx => hq (.inl h) x (by simpa [findRecord] using hx)))
    all_goals exact .refl _ _

theorem withdrawEntry_withdraws (m : MissReason) (e : PlanEntry) : Withdraws b s (withdrawEntry b m e s) := by
  unfold withdrawEntry
  split
  · exact .trans (takeOut_withdraws e) (unbackRecord_withdraws _)
  · exact .trans (.trans (takeOut_withdraws e) (leavePick_withdraws _)) (offer_withdraws _ rfl)
  · exact .trans (.trans (takeOut_withdraws e) (leavePick_withdraws _)) (offer_withdraws _ rfl)

theorem dropEntry_withdraws (e : PlanEntry) : Withdraws b s (dropEntry b e s) :=
  .trans (takeOut_withdraws e) (leavePick_withdraws _)

theorem walkEntry_withdraws (f : Bool) (e : PlanEntry) : Withdraws b s (walkEntry b (s, f) e).1 := by
  unfold walkEntry
  split
  · exact updateBuild_withdraws (fun x => { x with planned := x.planned.apply e.foot e.h e.weight e.rating })
      (fun _ => ⟨rfl, .refl _, rfl⟩)
  · exact withdrawEntry_withdraws _ _

theorem walk_withdraws (l : List PlanEntry) (f : Bool) : Withdraws b s (l.foldl (walkEntry b) (s, f)).1 := by
  induction l generalizing s f with
  | nil => exact .refl _ _
  | cons e l ih => exact .trans (walkEntry_withdraws f e) (ih (s := (walkEntry b (s, f) e).1) _)

theorem recompute_withdraws : Withdraws b s (recompute b s) := by
  have hw : Withdraws b s
      ((s.build b).plan.foldl (walkEntry b) (updateBuild b (fun x => { x with planned := x.built }) s, false)).1 :=
    .trans (updateBuild_withdraws (fun x => { x with planned := x.built }) (fun _ => ⟨rfl, .refl _, rfl⟩))
      (walk_withdraws _ _)
  unfold recompute
  simp only
  split
  · exact .trans hw triggerSweep_withdraws
  · exact hw

theorem withdrawAlone_withdraws (m : MissReason) (e : PlanEntry) : Withdraws b s (withdrawAlone b m e s) :=
  .trans (withdrawEntry_withdraws m e) recompute_withdraws

theorem foldl_withdraws {α : Type} (f : State → α → State) (hf : ∀ s a, Withdraws b s (f s a)) (l : List α) :
    Withdraws b s (l.foldl f s) := by
  induction l generalizing s with
  | nil => exact .refl _ _
  | cons a l ih => exact .trans (hf s a) ih

theorem withdrawMovable_withdraws (m : MissReason) : Withdraws b s (withdrawMovable b m s) :=
  foldl_withdraws _ (fun _ e => withdrawEntry_withdraws m e) _

theorem withdrawBatch_withdraws (m : MissReason) : Withdraws b s (withdrawBatch b m s) := by
  unfold withdrawBatch; split
  · exact .refl _ _
  · exact .trans (withdrawMovable_withdraws m) recompute_withdraws

theorem removeContested_withdraws (tag : Tag) : Withdraws b s (removeContested b tag s) := by
  unfold removeContested; split
  · exact .refl _ _
  · exact .trans (takeOut_withdraws _) recompute_withdraws

/-! ### What leaves -/

/-- A tag that is not planned in the build is not planned after a withdrawal. -/
theorem Withdraws.not_planned (h : Withdraws b s t) (tag : Tag) (hn : ∀ e ∈ (s.build b).plan, e.tag ≠ tag) :
    ∀ e ∈ (t.build b).plan, e.tag ≠ tag := fun e he => hn e (h.plan.subset he)

/-- A tag that is in no pick entry is in none after a withdrawal. -/
theorem Withdraws.not_picked (h : Withdraws b s t) (tag : Tag) (hn : ∀ p ∈ s.pick, p.tag ≠ tag) :
    ∀ p ∈ t.pick, p.tag ≠ tag := fun p hp => hn p (h.pick.subset hp)

/-- The entry that is taken out is not planned any more, and the freed credit triggers a sweep (R86, R20). -/
theorem takeOut_not_planned (e : PlanEntry) : ∀ x ∈ ((takeOut b e s).build b).plan, x.tag ≠ e.tag := by
  intro x hx
  simp [takeOut] at hx
  exact hx.2

theorem takeOut_sweep (e : PlanEntry) : (takeOut b e s).sweep.isSome = true := by simp [takeOut]

/-- The case that leaves the pick order list has no pick entry any more. -/
theorem leavePick_not_picked (tag : Tag) : ∀ p ∈ (leavePick tag s).pick, p.tag ≠ tag := by
  unfold leavePick
  split
  · unfold throttleAtLeave
    split <;> · intro p hp; simp at hp; exact hp.2
  · rename_i h
    intro p hp ht
    exact h (List.any_eq_true.mpr ⟨p, hp, by simpa using ht⟩)

/-- A WON or PLACING entry that is withdrawn leaves both lists, and its MISS is held when the queue has room and the
station may transmit (R86, R35). -/
theorem withdrawEntry_placed (m : MissReason) (e : PlanEntry) (he : e.state ≠ .contested) (hs : s.station ≠ .silent)
    (hl : s.txQueue.length < txCapacity) :
    (∀ x ∈ ((withdrawEntry b m e s).build b).plan, x.tag ≠ e.tag) ∧
      (∀ p ∈ (withdrawEntry b m e s).pick, p.tag ≠ e.tag) ∧
      TxFrame.fresh (.miss e.tag m) ∈ (withdrawEntry b m e s).txQueue ∧
      (withdrawEntry b m e s).sweep.isSome = true := by
  have hw : withdrawEntry b m e s = offer (.miss e.tag m) (leavePick e.tag (takeOut b e s)) := by
    unfold withdrawEntry; split <;> first | rfl | exact absurd ‹_› he
  rw [hw]
  refine ⟨fun x hx => takeOut_not_planned e x (by simpa using hx),
    fun p hp => leavePick_not_picked e.tag p (by simpa using hp), ?_, ?_⟩
  · rw [offer_room _ (by simpa [takeOut] using hs) (by simpa [takeOut] using hl)]
    simp
  · have := (leavePick_withdraws (b := b) e.tag).sweep (takeOut_sweep (s := s) (b := b) e)
    simpa using this

end Sys2Proof.Machine
end

