-- ==== Sys2Proof/Laws/Port.lean ====
section
/-!
SUPPORT. What one run of the port arbiter can do, said once (R109 to R112), and its frame.
-/
namespace Sys2Proof.Machine

variable {s : State}

/-- A run that may not grant changes nothing (R109). -/
theorem runArbiter_not_ready (h : portReady s = false) : runArbiter s = s := by simp [runArbiter, h]

/-- The port that holds an operation in flight lets the arbiter grant nothing (R109). -/
theorem runArbiter_busy (f : InFlight) (h : s.inFlight = some f) : runArbiter s = s :=
  runArbiter_not_ready (by simp [portReady, h])

/-- A robot that is not ready lets the arbiter grant nothing (R106). -/
theorem runArbiter_robot (h : s.robotReady = false) : runArbiter s = s :=
  runArbiter_not_ready (by simp [portReady, h])

/-- A port that is held lets the arbiter grant nothing (R106, R109). -/
theorem runArbiter_held (h : PortHeld s) : runArbiter s = s := by
  rcases h with h | h
  · obtain ⟨f, hf⟩ := Option.ne_none_iff_exists'.mp h
    exact runArbiter_busy f hf
  · exact runArbiter_robot h

/-- A run grants at most one request: it changes nothing, or it grants a scan that is due, a swap that is due, or a
PLACE for an entry of the pick order list (R110). -/
theorem runArbiter_cases (s : State) :
    runArbiter s = s ∨
      portReady s = true ∧
        ((∃ b k, (s.build b).scanDue = some k ∧ runArbiter s = grantScan b k s) ∨
          (∃ b, (s.build b).swapDue = true ∧ runArbiter s = grantSwap b s) ∨
          (∃ p m e, s.station = .run ∧ firstPlace s = some (p, m, e) ∧ runArbiter s = grantPlace p m e s)) := by
  by_cases hr : portReady s = true
  · unfold runArbiter
    simp only [hr, if_true]
    split
    · exact .inr ⟨trivial, .inl ⟨.A, _, ‹_›, rfl⟩⟩
    · exact .inr ⟨trivial, .inl ⟨.B, _, ‹_›, rfl⟩⟩
    · split
      · exact .inr ⟨trivial, .inr (.inl ⟨.A, ‹_›, rfl⟩)⟩
      · split
        · exact .inr ⟨trivial, .inr (.inl ⟨.B, ‹_›, rfl⟩)⟩
        · split
          · split
            · exact .inr ⟨trivial, .inr (.inr ⟨_, _, _, ‹_›, ‹_›, rfl⟩)⟩
            · exact .inl rfl
          · exact .inl rfl
  · exact .inl (runArbiter_not_ready (by simpa using hr))

/-- A run of the arbiter writes the port, the builds, the pick order list and the positions, and nothing else. -/
theorem runArbiter_frame (s : State) :
    runArbiter s = { s with
      inFlight := (runArbiter s).inFlight, seqCounter := (runArbiter s).seqCounter, utx := (runArbiter s).utx,
      buildA := (runArbiter s).buildA, buildB := (runArbiter s).buildB, pick := (runArbiter s).pick,
      positions := (runArbiter s).positions } := by
  rcases runArbiter_cases s with h | ⟨_, ⟨b, k, _, h⟩ | ⟨b, _, h⟩ | ⟨p, m, e, _, _, h⟩⟩
  · rw [h]
  · rw [h]; cases b <;> rfl
  · rw [h]; cases b <;> rfl
  · rw [h]
    unfold grantPlace
    cases p.build <;> rfl

/-- Either the arbiter grants nothing, or a request goes out with the next sequence number (R107, R111, R112). -/
theorem runArbiter_request (s : State) :
    runArbiter s = s ∨
      (runArbiter s).seqCounter = s.seqCounter + 1 ∧
        ∃ f p, (runArbiter s).inFlight = some f ∧ f.seq = s.seqCounter + 1 ∧ f.discard = false ∧
          (runArbiter s).utx = some (recordBytes (requestKind f.kind) (s.seqCounter + 1) p) := by
  rcases runArbiter_cases s with h | ⟨_, ⟨b, k, _, h⟩ | ⟨b, _, h⟩ | ⟨p, m, e, _, _, h⟩⟩
  · exact .inl h
  all_goals
    right
    rw [h]
    simp [grantScan, grantSwap, grantPlace]

end Sys2Proof.Machine
end

