-- ==== Sys2Proof/Laws/Receive.lean ====
section
/-!
SUPPORT. What the receive buffer hands on, said once: a build command and a command that this station takes act on the
state without the frame and without the live prepare (R5, R43, R164); what becomes of a received frame (R162, R175);
what the port receiver does with one byte (R177); what one step can do; and what the tests of a grid and of a scan say
tile by tile.
-/
namespace Sys2Proof.Machine

variable {s : State}

/-- A frame of the command's is taken from the buffer (R5). -/
theorem handOn_takes (isMine : Frame → Bool) (act : Frame → State → State) {f : Frame} {rest : List Frame}
    (h : s.rxBuffer = f :: rest) (hm : isMine f = true) : handOn isMine act s = act f { s with rxBuffer := rest } := by
  simp [handOn, h, hm]

/-- A frame that is not the command's stays in the buffer (log entry 2). -/
theorem handOn_skips (isMine : Frame → Bool) (act : Frame → State → State) {f : Frame} {rest : List Frame}
    (h : s.rxBuffer = f :: rest) (hm : isMine f = false) : handOn isMine act s = s := by
  simp [handOn, h, hm]

/-- A command that the station takes ends the live prepare and is acted on (R164). -/
theorem onCommand_takes {code : Nat} {f : Frame} {rest : List Frame} (h : TakesCommand s code f rest)
    (act : State → State) :
    onCommand f act { s with rxBuffer := rest } = act { s with rxBuffer := rest, pairing := none } := by
  obtain ⟨_, _, ha, hs⟩ := h
  have : addressedHere f { s with rxBuffer := rest } = true := by
    rcases ha with ha | ha <;> simp [addressedHere, ha]
  simp [onCommand, hs, this]

/-- A build command that the station takes, for a build it uses, is acted on (R43). -/
theorem buildCommand_takes {code : Nat} {f : Frame} {rest : List Frame} {b : BuildId}
    (h : TakesBuildCommand s code f rest b) (hu : (s.build b).state ≠ .unused) (act : Frame → BuildId → State → State) :
    buildCommand code act s = act f b { s with rxBuffer := rest, pairing := none } := by
  obtain ⟨h1, h2, h3, h4, h5, h6⟩ := h
  have hs : s.station ≠ .silent := by rcases h5 with h | h | h <;> simp [h]
  have hr : s.station ≠ .awaitConfig := by rcases h5 with h | h | h <;> simp [h]
  have hb : (State.build { s with rxBuffer := rest, pairing := none } b).state ≠ .unused := by cases b <;> exact hu
  rw [buildCommand, handOn_takes _ _ h1 h2, onCommand_takes (code := code) ⟨h1, h2, .inr h4, hs⟩, onBuildCommand,
    if_neg h3, if_neg (by exact hr)]
  simp only [h6]
  rw [if_neg hb]

/-- A received frame is discarded, or buffered: as the station's own come back, as a duplicate that silences the station
first, or as any other (R162, R175; log entry 35). -/
theorem frameReception_cases (f : Frame) (own : Bool) (s : State) :
    (frameAccepted f = false ∧ frameReception f own s = s) ∨
      frameAccepted f = true ∧
        ((own = true ∧ s.ownSent = some f ∧ frameReception f own s = bufferFrame f (forgetOwn s)) ∨
          (own = false ∨ s.ownSent ≠ some f) ∧
            ((isDuplicate f s = true ∧ frameReception f own s = bufferFrame f (enterSilent s)) ∨
              isDuplicate f s = false ∧ frameReception f own s = bufferFrame f s)) := by
  have ho : isOwn f own s = true ↔ own = true ∧ s.ownSent = some f := by simp [isOwn]
  unfold frameReception
  by_cases ha : frameAccepted f = true
  · by_cases hi : isOwn f own s = true
    · exact .inr ⟨ha, .inl ⟨(ho.mp hi).1, (ho.mp hi).2, by rw [if_pos ha, if_pos hi]⟩⟩
    · refine .inr ⟨ha, .inr ⟨?_, ?_⟩⟩
      · cases own
        · exact .inl rfl
        · exact .inr fun h => hi (ho.mpr ⟨rfl, h⟩)
      · by_cases hd : isDuplicate f s = true
        · exact .inl ⟨hd, by rw [if_pos ha, if_neg hi, if_pos hd]⟩
        · exact .inr ⟨by simpa using hd, by rw [if_pos ha, if_neg hi, if_neg hd]⟩
  · exact .inl ⟨by simpa using ha, if_neg ha⟩

/-- Idle, the receiver passes over every byte but the start byte (R177). -/
theorem takeByte_idle (now : Millis) (b : Byte) :
    takeByte now .idle b = (if b = 0x7E then .taking [] now else .idle, none) := rfl

/-- A byte that neither ends the record nor is a length byte above 48 is taken (R177). -/
theorem takeByte_goes_on (now lastAt : Millis) (got : List Byte) (b : Byte) (h : partialRecord (got ++ [b]) = true) :
    takeByte now (.taking got lastAt) b = (.taking (got ++ [b]) now, none) := by
  simp [takeByte, takeRecord, h]

/-- A length byte above 48 abandons the record (R177). -/
theorem takeByte_abandons (now lastAt : Millis) (kind seq b : Byte) (h : 48 < b.toNat) :
    takeByte now (.taking [kind, seq] lastAt) b = (.idle, some (.recordAbandoned kind seq b)) := by
  have h' : ¬ b.toNat ≤ 48 := by omega
  simp [takeByte, takeRecord, partialRecord, maxRecordPayload, h, h']

/-- The check byte ends the record, which raises its command (R105, R177). -/
theorem takeByte_assembles (now lastAt : Millis) (kind seq len check : Byte) (p : List Byte) (hl : len.toNat ≤ 48)
    (hp : p.length = len.toNat) :
    takeByte now (.taking (kind :: seq :: len :: p) lastAt) check = (.idle, some (recordCommand kind seq p check)) := by
  have h' : ¬ 48 < p.length := by omega
  simp [takeByte, takeRecord, partialRecord, maxRecordPayload, ← hp, byteAt, h']

/-- Idling writes the receiver with its bytes, the raised command, the time base and the beacons, and nothing else (log
entries 5 and 7). -/
theorem idle_frame (s : State) :
    idle s = { s with
      receiver := (idle s).receiver, urx := (idle s).urx, pending := (idle s).pending, timeBase := (idle s).timeBase,
      beacons := (idle s).beacons } := by
  unfold idle
  split
  · rfl
  · split <;> rfl

/-- A step runs the command at the front of the queue, or idles on an empty queue (log entry 5). -/
theorem step_cases (s : State) :
    (∃ c rest, s.pending = c :: rest ∧ step s = exec c { s with pending := rest }) ∨
      s.pending = [] ∧ step s = .next (idle s) := by
  unfold step
  split
  · exact .inr ⟨‹_›, rfl⟩
  · exact .inl ⟨_, _, ‹_›, rfl⟩

/-- A grid is all-deck when every tile stands at height 0 (R41). -/
theorem allDeck_iff (x : Surface) : allDeck x = true ↔ ∀ i : Fin 24, x.height[i] = 0 := by
  simp only [allDeck, List.all_eq_true, beq_iff_eq, Vector.mem_toList_iff]
  constructor
  · intro h i; exact h _ (by simp)
  · intro h a ha
    obtain ⟨i, hi, rfl⟩ := Vector.mem_iff_getElem.mp ha
    exact h ⟨i, hi⟩

/-- A tile mismatches when the heights differ by more than the tolerance (R138). -/
theorem mismatches_tile (tol : Nat) (e m : Tiles Nat) (i : Fin 24) :
    (mismatches tol e m)[i] = true ↔ ¬ (m[i] ≤ e[i] + tol ∧ e[i] ≤ m[i] + tol) := by
  simp only [mismatches, Fin.getElem_fin, Vector.getElem_ofFn, decide_eq_true_eq]
  omega

/-- All tiles match when no height differs by more than the tolerance (R139). -/
theorem allMatch_mismatches (tol : Nat) (e m : Tiles Nat) :
    allMatch (mismatches tol e m) = true ↔ ∀ i : Fin 24, m[i] ≤ e[i] + tol ∧ e[i] ≤ m[i] + tol := by
  have : allMatch (mismatches tol e m) = true ↔ ∀ i : Fin 24, (mismatches tol e m)[i] = false := by
    simp only [allMatch, List.all_eq_true, Vector.mem_toList_iff]
    constructor
    · intro h i; simpa using h _ (Vector.getElem_mem i.isLt)
    · intro h a ha
      obtain ⟨i, hi, rfl⟩ := Vector.mem_iff_getElem.mp ha
      simpa using h ⟨i, hi⟩
  rw [this]
  refine forall_congr' fun i => ?_
  rw [← Bool.not_eq_true, mismatches_tile, not_not]

end Sys2Proof.Machine
end

