-- ==== Sys2Proof/WellFormed.lean ====
section
/-!
DEFINITION. When a command's operands are ones its event can bring: the payload sizes of the depot line (R176), and
the lengths of robot-port records (R177). The machine answers for ill-formed commands too.
-/
namespace Sys2Proof

open Machine

/-- The payload sizes that the line accepts: 0 to 8, 12 or 16 bytes (R176). -/
def linePayloadSize (n : Nat) : Bool := n ≤ 8 || n == 12 || n == 16

/-- A command's operands are ones its event can bring. -/
def Instr.wellFormed : Instr → Bool
  | .frameReception f _ => linePayloadSize f.payload.length
  | .placeDone _ payload _ => payload.length ≤ maxRecordPayload
  | .scanData _ payload _ => payload.length ≤ maxRecordPayload
  | .swapDone _ payload _ => payload.length ≤ maxRecordPayload
  | .robotState _ payload _ => payload.length ≤ maxRecordPayload
  | .interByteTimeout got => partialRecord got
  | .recordDiscarded _ _ payload _ => payload.length ≤ maxRecordPayload
  | .recordAbandoned _ _ length => maxRecordPayload < length.toNat
  | .powerOn _ | .reset _ | .encoderPulse | .sendDeadline _ | .closePoint _ | .eyeWindowEnd _ | .pickOpenPoint _
  | .pickClosePoint _ | .eyeEdge | .eyeCapture | .caseNotice | .claim | .miss | .orderOpen | .orderLines
  | .orderCancel | .buildResume | .buildRelease | .clearPrepare | .clear | .statusQuery | .faultQuery | .rollCall
  | .lineSetup | .stationSetup1 | .stationSetup2 | .arbitration _ | .transmissionComplete | .transmissionFailure
  | .placeExpiry | .scanTimeout | .swapTimeout | .pauseTimerExpiry | .sweepOffer | .runBeaconBlink
  | .replyReportHelloReady => true

end Sys2Proof
end

