-- ==== Sys2Proof/Tests/Slice0.lean ====
section
/-!
SUPPORT. The author's own tests: the well-formedness checks with an ill-formed command for each, single commands on
small states with results taken from the worked examples of spec/, and for each statement of
Certificates/Slice0/Obligations.lean with hypotheses a state and operands that meet them.
-/
namespace Sys2Proof.Tests

open Sys2Proof Sys2Proof.Machine

/-! ### States -/

/-- The planned surface of 04 section 4.6. -/
def grid : Surface where
  height := ⟨#[48, 48, 48, 0, 0, 0, 48, 48, 46, 0, 0, 0, 0, 0, 0, 0, 0, 0, 0, 0, 0, 0, 0, 0], rfl⟩
  margin := ⟨#[750, 750, 750, 60000, 60000, 60000, 750, 750, 600, 60000, 60000, 60000,
    60000, 60000, 60000, 60000, 60000, 60000, 60000, 60000, 60000, 60000, 60000, 60000], rfl⟩
  weight := 2400
  mx := -480000
  my := -480000
  cases := 5

/-- The line setup of 01 section 1.6 and 04 section 4.6, VERIFY_TOL 2. -/
def line : LineSetup := ⟨900, 120, 2, 1000, 200, 250, 200, 2⟩

/-- EYE_DIST 1500, EYE_TOL 40, pick points 100 and 300, credits 4 and 4, limits of 3 s, 2 s and 30 s. -/
def own1 : Setup1 := ⟨1500, 40, 100, 300, 4, 4, true, 30, 20, 30⟩

/-- Quick limits 3 and 2, a pause of 2 s, the latch enabled, throttle 3 and 1 with cut 5000, step 50, tolerance 10. -/
def own2 : Setup2 := ⟨3, 2, 20, true, 3, 1, 5000, 50, 10⟩

/-- Order 70488 of 04 section 4.6. -/
def order : OrderHeader := ⟨70488, 2, 2, 360, 2, false⟩

/-- Build A of 04 section 4.6. -/
def openA : Build :=
  { Build.atPowerOn with
    state := .opened, order := some order, lines := [⟨412, false, 3, 0, 0⟩, ⟨77, true, 2, 0, 0⟩], nextLine := 2
    built := grid, planned := grid }

/-- Station 3 in RUN, with both builds in EMPTY. -/
def running : State :=
  { State.blank with
    station := .run, stationNumber := some 3, lineSetup := some line, setup1 := some own1, setup2 := some own2
    buildA := { Build.atPowerOn with state := .empty }, buildB := { Build.atPowerOn with state := .empty } }

/-- Station 3 in AWAIT CONFIG. -/
def waiting : State := { State.blank with station := .awaitConfig, stationNumber := some 3 }

/-- Station 3 with build A in OPEN at belt count 64880 (01 section 1.6). -/
def ready : State := { running with buildA := openA, belt := 64880 }

/-- The state a command answers. -/
def after (c : Instr) (s : State) : State :=
  match exec c s with
  | .next t => t
  | .fault _ => s
  | .refused _ => s

/-- A frame of a kind 3 command to station 3. -/
def command (code : Nat) (p : List Byte) : Frame := ⟨BitVec.ofNat 11 (0x300 + 48 + code), p⟩

/-- A state whose receive buffer holds one frame. -/
def holding (f : Frame) (s : State) : State := { s with rxBuffer := [f] }

/-- CASE NOTICE 0B10H of 01 section 1.6: stamp 64800, article 412, w 2, d 1, h 30, W 180, R 25. -/
def notice : Frame := ⟨0x000, [0x0B, 0x10, 0xFD, 0x20, 0x01, 0x9C, 0x21, 30, 0, 180, 25, 0]⟩

/-- CLAIM 0B10H of 01 section 1.6: 9088 from station 7. -/
def claim9088 : Frame := ⟨0x127, [0x0B, 0x10, 0x23, 0x80, 0]⟩

/-- CLAIM 0B10H with score 5000 from station 2. -/
def claim5000 : Frame := ⟨0x112, [0x0B, 0x10, 0x13, 0x88, 0]⟩

/-- The entry of case 0B10H (04 section 4.6). -/
def entry : PlanEntry := ⟨0x0B10, 0, ⟨3, 1, 2, 1⟩, false, 0, 30, 180, 25, false, .contested, none⟩

/-- The record of case 0B10H after its bid (01 section 1.6). -/
def record : TrackRecord :=
  ⟨0x0B10, ⟨412, 2, 1, 30, 180, 25, false, 64800⟩, 164, 44, false, .queued, none, some ⟨.A, 6016, true⟩⟩

/-- Case 0B10H is contested: its entry is planned, its claim is held, its positions are registered. -/
def contested : State :=
  { ready with
    track := [record]
    positions := [⟨.closePoint, 0x0B10, 164, false⟩, ⟨.sendDeadline, 0x0B10, 44, false⟩]
    txQueue := [⟨.claim 0x0B10 6016 .A, false, false, true⟩]
    buildA := { openA with
      plan := [entry], planned := grid.apply ⟨3, 1, 2, 1⟩ 30 180 25
      lines := [⟨412, false, 3, 1, 0⟩, ⟨77, true, 2, 0, 0⟩] } }

/-- The state of case 0B10H's record and its positions, raised. -/
def withRecord (st : TrackState) (ps : List Position) (s : State) : State :=
  { s with track := [{ record with state := st }], positions := ps }

/-- Case 0B10H is WON and waits for the eye with the window of 01 section 1.6. -/
def pickEntry : PickEntry := ⟨0x0B10, .A, 64800, 764, 724, 804, .awaitEye⟩

/-- Case 0B10H is WON. -/
def won : State :=
  { contested with
    track := [], txQueue := [], positions := [⟨.eyeWindowEnd, 0x0B10, 804, true⟩], pick := [pickEntry], belt := 804
    buildA := { contested.buildA with plan := [{ entry with state := .won }] } }

/-- Case 0B10H is ARRIVED with capture 790 (01 section 1.6), its window open or not. -/
def arrived (isOpen : Bool) : State :=
  { won with
    positions := [⟨.pickOpen, 0x0B10, 890, true⟩, ⟨.pickClose, 0x0B10, 1090, true⟩]
    pick := [{ pickEntry with phase := .arrived ⟨790, 890, 1090, isOpen⟩ }] }

/-- Case 0B10H is PLACING, with its PLACE in flight under number 17. -/
def placing : State :=
  { won with
    positions := [], pick := [{ pickEntry with phase := .placing ⟨790, 890, 1090, true⟩ }]
    inFlight := some ⟨.place, 17, .A, some 0x0B10, 0, 3000, false⟩
    buildA := { contested.buildA with plan := [{ entry with state := .placing }] } }

/-- Build A in a state, with nothing planned. -/
def withA (st : BuildState) (s : State) : State := { s with buildA := { openA with state := st } }

/-- A scan of build A in flight under number 17. -/
def scanning (st : BuildState) (k : ScanKind) : State :=
  { ready with
    inFlight := some ⟨.scan, 17, .A, none, 0, 2000, false⟩
    buildA := { openA with state := st, scanInFlight := some ⟨k, false, false⟩ } }

/-- A swap of build A in flight under number 17. -/
def swapping : State :=
  { ready with
    inFlight := some ⟨.swap, 17, .A, none, 0, 30000, false⟩
    buildA := { openA with state := .swapping, swapInFlight := true } }

/-- The check byte of a record. -/
def check (kind seq : Byte) (p : List Byte) : Byte := crc8 (crcBody kind seq p)

/-- The heights of the grid as a SCAN DATA payload. -/
def gridBytes : List Byte := grid.height.toList.flatMap bytes2

/-! ### Well-formed commands: an ill-formed one for each check, refused -/

/-- The line accepts payloads of 0 to 8, 12 and 16 bytes (R176). -/
theorem test_frame_of_9_bytes_is_ill_formed :
    Instr.wellFormed (.frameReception ⟨0x000, List.replicate 9 0⟩ false) = false ∧
      Instr.wellFormed (.frameReception ⟨0x000, List.replicate 17 0⟩ false) = false ∧
      Instr.wellFormed (.frameReception ⟨0x000, List.replicate 12 0⟩ false) = true := by decide

/-- A record's payload is at most 48 bytes (R177). -/
theorem test_long_records_are_ill_formed :
    Instr.wellFormed (.placeDone 0 (List.replicate 49 0) 0) = false ∧
      Instr.wellFormed (.scanData 0 (List.replicate 49 0) 0) = false ∧
      Instr.wellFormed (.swapDone 0 (List.replicate 49 0) 0) = false ∧
      Instr.wellFormed (.robotState 0 (List.replicate 49 0) 0) = false ∧
      Instr.wellFormed (.recordDiscarded 0 0 (List.replicate 49 0) 0) = false := by decide

/-- A record is abandoned at a length byte above 48 (R177). -/
theorem test_abandoned_record_needs_a_long_length :
    Instr.wellFormed (.recordAbandoned 0 0 48) = false ∧ Instr.wellFormed (.recordAbandoned 0 0 49) = true := by decide

/-- A whole record is no broken one (R177). -/
theorem test_whole_record_is_not_broken_off :
    Instr.wellFormed (.interByteTimeout [0x84, 0, 1, 1, 0x7B]) = false ∧
      Instr.wellFormed (.interByteTimeout [0x84, 0, 1, 1]) = true := by decide

/-! ### The worked examples -/

/-- 12 section 12.5.1: the running CRC of 84H 00H 01H 01H ends at 7BH; with payload 00H it is 7CH. -/
theorem test_crc_of_robot_state : check 0x84 0 [1] = 0x7B ∧ check 0x84 0 [0] = 0x7C := by decide +kernel

/-- 04 section 4.6: orientation 0, anchor (3,1), B 0, score 6016. -/
theorem test_worked_placement :
    search line order true grid ⟨30, 180, false⟩ 2 1 = some ⟨false, ⟨3, 1, 2, 1⟩, 0, 6016⟩ := by decide

/-- 04 section 4.6: the totals and the tiles after the apply. -/
theorem test_worked_apply :
    (grid.apply ⟨3, 1, 2, 1⟩ 30 180 25).mx = -444000 ∧ (grid.apply ⟨3, 1, 2, 1⟩ 30 180 25).my = -498000 ∧
      (grid.apply ⟨3, 1, 2, 1⟩ 30 180 25).height[9] = 30 ∧
      (grid.apply ⟨3, 1, 2, 1⟩ 30 180 25).margin[10] = 250 := by decide

/-- 04 section 4.7, event 2: the load check passes at equality, and the case beneath rules the stack. -/
theorem test_worked_stack :
    loadCheck (grid.apply ⟨3, 1, 2, 1⟩ 30 180 25) 520 ⟨3, 1, 2, 1⟩ = false ∧
      loadCheck (grid.apply ⟨3, 1, 2, 1⟩ 30 180 25) 499 ⟨3, 1, 2, 1⟩ = true ∧
      ((grid.apply ⟨3, 1, 2, 1⟩ 30 180 25).apply ⟨3, 1, 2, 1⟩ 24 499 10).margin[9] = 0 := by decide

/-- 04 section 4.7: a measured weight of 540 clamps tiles 9 and 10. -/
theorem test_worked_clamp : anyClamped (grid.apply ⟨3, 1, 2, 1⟩ 30 180 25) ⟨3, 1, 2, 1⟩ 540 = true := by decide

/-- 01 section 1.6, event 1: the record of 0B10H with its close point 164, send deadline 44 and bid. -/
theorem test_caseNotice_worked : (after .caseNotice (holding notice ready)).track = [record] := by decide

/-- 01 section 1.6, event 1: the claim with score 6016 from build A is queued. -/
theorem test_caseNotice_claims :
    (after .caseNotice (holding notice ready)).txQueue = [⟨.claim 0x0B10 6016 .A, false, false, true⟩] := by decide

/-- 01 section 1.6, event 6: 9088 is not better than a best heard of 6016. -/
theorem test_claim_worked :
    (after .claim (holding claim9088
      { contested with track := [{ record with state := .sent, best := some ⟨6016, 3⟩ }] })).track =
      [{ record with state := .sent, best := some ⟨6016, 3⟩ }] := by decide

/-- R28: a better claim makes a QUEUED record LOST, and its held claim leaves the queue. -/
theorem test_claim_loses :
    (after .claim (holding claim5000 contested)).txQueue = [] ∧
      (after .claim (holding claim5000 contested)).counters.claimLost = 1 := by decide

/-- 01 section 1.6, event 12: the case is won, with expected eye 764 and window 724 to 804. -/
theorem test_closePoint_worked :
    (after (.closePoint 0x0B10) { withRecord .sent [⟨.closePoint, 0x0B10, 164, true⟩] contested with belt := 164 }).pick
        =
      [pickEntry] := by decide

/-- R32: an UNBID record leaves at its close point and no MISS is sent. -/
theorem test_closePoint_unbid :
    (after (.closePoint 0x0B10) (withRecord .unbid [⟨.closePoint, 0x0B10, 164, true⟩] ready)).txQueue =
      [] := by decide

/-- R29: at its send deadline a QUEUED record returns to UNBID and its line counts nothing planned. -/
theorem test_sendDeadline_takes_back :
    (after (.sendDeadline 0x0B10) (withRecord .queued [⟨.sendDeadline, 0x0B10, 44, true⟩] contested)).buildA.lines =
      openA.lines := by decide

/-- R1, R3: the counter wraps to 0, and a position registered at 0 raises its event. -/
theorem test_encoderPulse_wraps :
    (after .encoderPulse { running with belt := 65535, positions := [⟨.closePoint, 1, 0, false⟩] }).belt = 0 ∧
      (after .encoderPulse { running with belt := 65535, positions := [⟨.closePoint, 1, 0, false⟩] }).positions =
        [⟨.closePoint, 1, 0, true⟩] := by decide

/-- 01 section 1.6, event 13: capture 790 lies inside the window; the pick points are registered (R101). -/
theorem test_eyeCapture_worked :
    (after .eyeCapture { won with eyeLatch := some 790, belt := 790 }).pick =
      [{ pickEntry with phase := .arrived ⟨790, 890, 1090, false⟩ }] := by decide

/-- R2: a capture one count past the window's end is outside. -/
theorem test_eyeCapture_outside :
    (after .eyeCapture { won with eyeLatch := some 805, belt := 805 }).pick = [pickEntry] := by decide

/-- R102: ABSENT, with its MISS. -/
theorem test_eyeWindowEnd_absent :
    (after (.eyeWindowEnd 0x0B10) won).txQueue = [TxFrame.fresh (.miss 0x0B10 .absent)] ∧
      (after (.eyeWindowEnd 0x0B10) won).counters.absent = 1 := by decide

/-- R104: LAPSED, with its MISS. -/
theorem test_pickClosePoint_lapsed :
    (after (.pickClosePoint 0x0B10) (arrived true)).txQueue = [TxFrame.fresh (.miss 0x0B10 .lapsed)] := by decide

/-- 06 section 6.7: the request follows number 16 with 17, and its limit is 3000 ms. -/
theorem test_pickOpenPoint_grants :
    (after (.pickOpenPoint 0x0B10) { arrived false with robotReady := true, seqCounter := 16 }).inFlight =
      some ⟨.place, 17, .A, some 0x0B10, 0, 3000, false⟩ := by decide

/-- R16: the latch keeps its capture. -/
theorem test_eyeEdge_overrun :
    (after .eyeEdge { running with eyeLatch := some 5 }).eyeLatch = some 5 ∧
      (after .eyeEdge { running with eyeLatch := some 5 }).counters.eyeOverrun = 1 := by decide

/-- R155: straps 1 and 12 are station numbers. -/
theorem test_powerOn_station :
    (after (.powerOn 1) running).stationNumber = some 1 ∧ (after (.reset 12) running).stationNumber = some 12 := by
  decide

/-- R155: straps 0 and 13 are not. -/
theorem test_powerOn_silent :
    (after (.powerOn 0) running).station = .silent ∧ (after (.reset 13) running).station = .silent := by decide

/-- R44, R45: the height limit is clamped to 400 and the priority to 7. -/
theorem test_orderOpen_clamps :
    ((after .orderOpen (holding (command 1 [0, 0, 1, 0x13, 0x58, 9, 2, 2, 0, 2, 0]) running)).buildA.order =
      some ⟨70488, 7, 2, 400, 2, false⟩) := by decide

/-- R47: the last line opens the build. -/
theorem test_orderLines_opens :
    (after .orderLines (holding (command 2 [0, 0, 2, 0x01, 0x9C, 3, 0x80, 77, 2])
      { running with buildA := { Build.atPowerOn with state := .loading, order := some order } })).buildA.lines = openA.lines := by
  decide

/-- R55: a cancel in LOADING empties the build. -/
theorem test_orderCancel_loading :
    (after .orderCancel (holding (command 3 [0]) (withA .loading ready))).buildA.state = .empty := by decide

/-- R54: a rescan falls due. -/
theorem test_buildResume_rescan :
    (after .buildResume (holding (command 4 [0]) (withA .held ready))).buildA.scanDue = some .rescan := by decide

/-- R58 to R60: the pallet leaves unverified. -/
theorem test_buildRelease_swaps :
    (after .buildRelease (holding (command 5 [0]) (withA .held ready))).buildA.swapDue = true := by decide

/-- R164, R165: a prepared CLEAR is the line clear. -/
theorem test_clear_prepared :
    (after .clear (holding (command 9 [0, 7]) (after .clearPrepare (holding (command 8 [0, 7]) contested)))).track = [] := by
  decide

/-- R164: an unprepared CLEAR clears nothing. -/
theorem test_clear_unprepared : (after .clear (holding (command 9 [0, 7]) contested)).track = [record] := by decide

/-- 11 section 11.3.1, event 1: both frames are placed and the counters are cleared. -/
theorem test_statusQuery_worked :
    (after .statusQuery (holding (command 12 [1]) { running with
      txQueue := List.replicate 6 (TxFrame.fresh (.miss 1 .absent))
      counters := { Counters.zero with lapsed := 3 }, throttleSeen := true })).counters =
      Counters.zero := by decide

/-- 11 section 11.3.1: with 7 frames held, TX DROP reads 1 and LAPSED 3 is kept. -/
theorem test_statusQuery_dropped :
    (after .statusQuery (holding (command 12 [1]) { running with
      txQueue := List.replicate 7 (TxFrame.fresh (.miss 1 .absent))
      counters := { Counters.zero with lapsed := 3 }, throttleSeen := true })).counters =
      { Counters.zero with lapsed := 3, txDrop := 1 } := by decide

/-- R156: a HELLO with no flag set. -/
theorem test_rollCall_hello :
    (after .rollCall (holding ⟨0x500, []⟩ waiting)).txQueue =
      [TxFrame.fresh (.hello false false false)] := by decide

/-- R158: VERIFY_TOL 0 is taken as 1, LIMX 700 as 600. -/
theorem test_lineSetup_clamps :
    (after .lineSetup (holding ⟨0x510, [3, 0x84, 0, 120, 2, 3, 0xE8, 0, 200, 2, 0xBC, 0, 200, 0]⟩ waiting)).lineSetup =
      some ⟨900, 120, 2, 1000, 200, 600, 200, 1⟩ := by decide

/-- R24: a frame on the line keeps its place until the transmission ends. -/
theorem test_arbitration_and_failure :
    (after .transmissionFailure (after (.arbitration true) contested)).txQueue = contested.txQueue := by decide

/-- R25: the record of the transmitted claim is SENT. -/
theorem test_transmissionComplete_sent :
    (after .transmissionComplete (after (.arbitration true) contested)).track = [{ record with state := .sent }] := by
  decide

/-- 08 section 8.5: PLACED applies the case to the built surface. -/
theorem test_placeDone_placed :
    (after (.placeDone 17 [1, 0, 180] (check 0x81 17 [1, 0, 180])) placing).buildA.built.height[9] = 30 := by
  decide +kernel

/-- 04 section 4.7, R95: a measured weight that clamps a tile holds the build. -/
theorem test_placeDone_overload :
    (after (.placeDone 17 [1, 0xFF, 0xFF] (check 0x81 17 [1, 0xFF, 0xFF]))
      { placing with buildA := { placing.buildA with built := { grid with margin := Vector.replicate 24 100 } } }).buildA.state =
      .held := by decide +kernel

/-- R146: a matching final scan completes the pallet. -/
theorem test_scanData_final :
    (after (.scanData 17 gridBytes (check 0x82 17 gridBytes)) (scanning .closing .final)).buildA.swapDue = true := by
  decide +kernel

/-- R149: the exchange empties the build. -/
theorem test_swapDone_empties : (after (.swapDone 17 [] (check 0x83 17 [])) swapping).buildA.state = .empty := by
  decide +kernel

/-- R150: a swap expiry holds the build without its order. -/
theorem test_swapTimeout_holds :
    (after .swapTimeout swapping).buildA.state = .held ∧ (after .swapTimeout swapping).buildA.order = none := by decide

/-- R119: a place expiry leaves the case uncertain and records PLACE TIMEOUT. -/
theorem test_placeExpiry_uncertain :
    (after .placeExpiry placing).buildA.scanDue = some .uncertain ∧
      (after .placeExpiry placing).fault.cause = some .placeTimeout := by decide

/-- R129: the pause ends with F 0. -/
theorem test_pauseTimerExpiry_runs :
    (after .pauseTimerExpiry { ready with station := .paused, pauseTimer := some 0, streak := 3 }).streak = 0 := by
  decide

/-- Station 3 inside a record whose last byte came at time 0, with bytes that wait on URX. -/
def receiving (got bytes : List Byte) : State := { running with receiver := .taking got 0, urx := bytes }

/-- 12 section 12.5.1: the bytes 7EH 84H 00H 01H 01H 7BH are ROBOT STATE with payload 01H. -/
theorem test_urx_record :
    (idle (receiving [0x84, 0, 1, 1] [0x7B])).pending = [.robotState 0 [1] 0x7B] ∧
      (idle (receiving [0x84, 0, 1, 1] [0x7C])).pending = [.recordDiscarded 0x84 0 [1] 0x7C] := by decide +kernel

/-- R177: idle, the receiver passes over every byte but 7EH; inside a record 7EH is data. -/
theorem test_urx_start_byte :
    (idle { running with urx := [0x00] }).receiver = .idle ∧
      (idle { running with urx := [0x7E] }).receiver = .taking [] 0 ∧
      (idle (receiving [0x84] [0x7E])).receiver = .taking [0x84, 0x7E] 0 := by decide

/-- R177: a length byte of 49 abandons the record, one of 48 does not; a gap of 6 ms raises its command, one of 5 does
not. -/
theorem test_urx_abandons :
    (idle (receiving [0x84, 0] [49])).pending = [.recordAbandoned 0x84 0 49] ∧
      (idle (receiving [0x84, 0] [48])).pending = [] ∧
      (idle { receiving [0x84] [] with timeBase := 6 }).pending = [.interByteTimeout []] ∧
      (idle { receiving [0x84] [0] with timeBase := 5 }).pending = [] := by decide

/-- The claim of case 0B10H is in transmission. -/
def sending : State := after (.arbitration true) contested

/-- CLAIM 0B10H of station 3 itself. -/
def ownClaim : Frame := (TxBody.claim 0x0B10 6016 .A).frame 3

/-- R162, R25: the frame that the station has sent is its own, before its completion is taken and after; the same frame,
never sent or received a second time, is another node's. -/
theorem test_frameReception_own_mark : ∀ s ∈ [sending, after .transmissionComplete sending],
    (after (.frameReception ownClaim true) s).station = .run ∧
      (after (.frameReception ownClaim false) s).station = .silent ∧
      (after (.frameReception ownClaim true) contested).station = .silent ∧
      (after (.frameReception ownClaim true) (after (.frameReception ownClaim true) s)).station = .silent := by decide

/-! ### Each statement's hypotheses can be met -/

theorem witness_StepRunsTheFrontCommand :
    State.pending { running with pending := [.eyeEdge, .miss] } = Instr.eyeEdge :: [.miss] := rfl

theorem witness_IdleStepPassesOneMillisecond : State.reset.pending = [] ∧ State.reset.urx = [] := ⟨rfl, rfl⟩

/-- A gap of 6 ms and one of 5, a length byte of 49 and one of 48, a check byte that passes and one that does not. -/
theorem witness_IdleStepPassesOneMillisecond_receiving :
    (receiving [] []).pending = [] ∧ (receiving [] []).receiver = .taking [] 0 ∧ 5 < ((6 : Millis) - 0).toNat ∧
      ((5 : Millis) - 0).toNat ≤ 5 ∧ partialRecord ([0x84, 0] ++ [48]) = true ∧ 48 < (49 : Byte).toNat ∧
      (receiving [0x84, 0, 1, 1] [0x7B]).receiver = .taking (0x84 :: 0 :: 1 :: [1]) 0 ∧
      [(1 : Byte)].length = (1 : Byte).toNat ∧ recordPasses 0x84 0 [1] 0x7B = true ∧
      recordPasses 0x84 0 [1] 0x7C = false := by decide +kernel

/-- Commands whose event cannot occur: a position not registered and one not raised, a frame of another kind, no frame
on the line, no operation of the kind in flight, an empty latch, no sweep. -/
theorem witness_EveryCommandCompletes :
    ¬ CanOccur (.closePoint 0x0B10) ready ∧ ¬ CanOccur (.closePoint 0x0B10) contested ∧
      ¬ CanOccur .claim (holding notice ready) ∧ ¬ CanOccur .transmissionComplete contested ∧
      ¬ CanOccur .placeExpiry swapping ∧ ¬ CanOccur .eyeCapture ready ∧ ¬ CanOccur .sweepOffer ready ∧
      CanOccur (.closePoint 0x0B10) { contested with positions := [⟨.closePoint, 0x0B10, 164, true⟩] } := by
  refine ⟨?_, ?_, ?_, ?_, ?_, ?_, ?_, ?_⟩
  · show ¬ EventRaised ready .closePoint 0x0B10
    decide
  · show ¬ EventRaised contested .closePoint 0x0B10
    decide
  · rintro ⟨f, rest, h, k, -⟩
    cases h
    exact absurd k (by decide)
  · show ¬ ∃ f ∈ contested.txQueue, f.inTransmission = true
    decide
  · rintro ⟨g, h, k⟩
    cases h
    exact absurd k (by decide)
  · exact fun h => h rfl
  · exact fun h => h rfl
  · exact ⟨_, List.mem_cons_self, rfl, rfl, rfl⟩

theorem witness_BeaconsFollowTheirConditions : ∃ t, step { ready with pending := [.encoderPulse] } = .next t := ⟨_, rfl⟩

/-- Every queue and every counter at its bound. -/
def full : State :=
  { running with
    txQueue := List.replicate 8 (TxFrame.fresh (.miss 1 .absent)), rxBuffer := List.replicate 16 notice
    track := List.replicate 24 record, streak := 15, cycles := 255
    counters := ⟨255, 255, 255, 255, 255, 255, 255, 255, 255, 255, 255, 255, 255⟩, pending := [.eyeEdge] }

theorem witness_StepKeepsBounds : QueueBounds full ∧ CountsBounded full ∧ ∃ t, step full = .next t :=
  ⟨by decide, by decide, _, rfl⟩

theorem witness_StepKeepsTheLine :
    sending.ctx.isSome = true ∧ LineCarriesOne sending ∧ ∃ t, step sending = .next t := ⟨by decide, by decide, _, rfl⟩

theorem witness_StepKeepsTheTrackList :
    TrackTagsDistinct contested ∧ CloseRegistered contested ∧ ∃ t, step contested = .next t :=
  ⟨by decide, by decide, _, rfl⟩

theorem witness_ConfigurationIsFixedAfterReady :
    ready.station ≠ .awaitConfig ∧ restarts .lineSetup = false ∧ ∃ t, exec .lineSetup ready = .next t :=
  ⟨by decide, rfl, _, rfl⟩

/-- Station 3 in SILENT. -/
def silent : State := { ready with station := .silent }

theorem witness_SilenceLastsUntilRestart :
    silent.station = .silent ∧ restarts (.arbitration true) = false ∧ ∃ t, exec (.arbitration true) silent = .next t :=
  ⟨rfl, rfl, _, rfl⟩

theorem witness_PulsesAloneMoveTheBelt :
    restarts .encoderPulse = false ∧ ∃ t, exec .encoderPulse ready = .next t := ⟨rfl, _, rfl⟩

theorem witness_RequestsTakeTheNextNumber :
    restarts (.pickOpenPoint 0x0B10) = false ∧
      ∃ t, exec (.pickOpenPoint 0x0B10) { arrived false with robotReady := true, seqCounter := 255 } = .next t ∧
        t.seqCounter = 0 := ⟨rfl, _, rfl, by decide⟩

theorem witness_StepKeepsPlansSound : PlansSound contested ∧ ∃ t, step contested = .next t := by
  refine ⟨?_, _, rfl⟩
  constructor
  case waiting => intro h; exact absurd h (by decide)
  case swapping => intro f h; exact absurd h (by simp [contested, ready, running, State.blank])
  all_goals first | decide | (intro b; cases b <;> decide)

/-- Captures at both ends of the eye window of 01 section 1.6. -/
theorem witness_EyeCaptureIsMatchedOrDiscarded_matched : ∀ n ∈ [724, 804],
    (∃ c : Count, c = BitVec.ofNat 16 n ∧ State.eyeLatch { won with eyeLatch := some c } = some c ∧
      won.station = .run ∧ won.pick = [] ++ pickEntry :: [] ∧ (won.pick.map PickEntry.tag).Nodup ∧
      pickEntry.phase = .awaitEye ∧ (c - pickEntry.winStart).toNat ≤ (pickEntry.winEnd - pickEntry.winStart).toNat ∧
      32768 ≤ (won.belt - (c + won.own1.pickOpen)).toNat) := by
  intro n h
  refine ⟨_, rfl, rfl, rfl, rfl, by decide, rfl, ?_⟩
  revert n
  decide

/-- Capture 764 with its open point 864 reached on the count, and not reached one count before. -/
def captured (belt : Count) : State := { won with eyeLatch := some 764, belt := belt }

theorem witness_EyeCaptureIsMatchedOrDiscarded_open :
    (captured 864).eyeLatch = some 764 ∧ (captured 864).pick = [] ++ pickEntry :: [] ∧
      ((764 : Count) - pickEntry.winStart).toNat ≤ (pickEntry.winEnd - pickEntry.winStart).toNat ∧
      ((captured 864).belt - (764 + (captured 864).own1.pickOpen)).toNat < 32768 ∧
      32768 ≤ ((captured 863).belt - (764 + (captured 863).own1.pickOpen)).toNat ∧ PortHeld (captured 864) := by decide

theorem witness_EyeCaptureIsMatchedOrDiscarded_discarded : ∀ n ∈ [723, 805], ∀ q ∈ won.pick,
    q.phase = .awaitEye → (q.winEnd - q.winStart).toNat < (BitVec.ofNat 16 n - q.winStart).toNat := by decide

theorem witness_PickOpenPointOpensTheWindow :
    EventRaised (arrived false) .pickOpen 0x0B10 ∧
      (arrived false).pick = [] ++ { pickEntry with phase := .arrived ⟨790, 890, 1090, false⟩ } :: [] ∧
      ((arrived false).pick.map PickEntry.tag).Nodup ∧ pickEntry.tag = 0x0B10 ∧ PortHeld (arrived false) := by decide

theorem witness_UnpickedCasesAreGivenUp_absent :
    findPick 0x0B10 won = some pickEntry ∧ findEntry .A 0x0B10 won = some { entry with state := .won } ∧
      won.station ≠ .silent ∧ won.txQueue.length < 8 ∧ EventRaised won .eyeWindowEnd 0x0B10 := by decide

theorem witness_UnpickedCasesAreGivenUp_lapsed :
    findPick 0x0B10 (arrived true) = some { pickEntry with phase := .arrived ⟨790, 890, 1090, true⟩ } ∧
      findEntry .A 0x0B10 (arrived true) = some { entry with state := .won } ∧ (arrived true).station ≠ .silent ∧
      (arrived true).txQueue.length < 8 ∧ EventRaised (arrived true) .pickClose 0x0B10 := by decide

/-- The send deadline of case 0B10H has been raised. -/
def atDeadline (s : State) : State := { s with positions := [⟨.sendDeadline, 0x0B10, 44, true⟩] }

theorem witness_SendDeadlineTakesBackTheBid_held :
    EventRaised (atDeadline contested) .sendDeadline 0x0B10 ∧
      findRecord 0x0B10 (atDeadline contested) = some record ∧
      claimInTransmission 0x0B10 (atDeadline contested) = false := by decide

theorem witness_SendDeadlineTakesBackTheBid_sending :
    EventRaised (atDeadline sending) .sendDeadline 0x0B10 ∧ findRecord 0x0B10 (atDeadline sending) = some record ∧
      claimInTransmission 0x0B10 (atDeadline sending) = true := by decide

theorem witness_SendDeadlineTakesBackTheBid_sent :
    EventRaised (withRecord .sent [⟨.sendDeadline, 0x0B10, 44, true⟩] contested) .sendDeadline 0x0B10 ∧
      findRecord 0x0B10 (withRecord .sent [⟨.sendDeadline, 0x0B10, 44, true⟩] contested) =
        some { record with state := .sent } := by decide

/-- The close point of case 0B10H has been raised on a record in a state, with a best heard equal to the own bid. -/
def atClose (st : TrackState) : State :=
  { contested with
    track := [{ record with state := st, best := some ⟨6016, 3⟩ }]
    positions := [⟨.closePoint, 0x0B10, 164, true⟩], rxBuffer := [claim9088] }

theorem witness_BestSentClaimWinsAtClose :
    EventRaised (atClose .sent) .closePoint 0x0B10 ∧
      findRecord 0x0B10 (atClose .sent) = some { record with state := .sent, best := some ⟨6016, 3⟩ } ∧
      ¬ BetterClaim ⟨6016, 3⟩ 6016 (atClose .sent).number ∧
      (∀ f ∈ (atClose .sent).rxBuffer, kindOf f = 1 → wordAt f.payload 0 = 0x0B10 →
        ¬ BetterClaim (heardOf f) 6016 (atClose .sent).number) := by decide

/-- The send deadline and the close point of case 0B10H have both been raised. -/
def bothRaised (st : TrackState) : State :=
  { atClose st with positions := [⟨.closePoint, 0x0B10, 164, true⟩, ⟨.sendDeadline, 0x0B10, 44, true⟩] }

theorem witness_UnwonCasesLeaveAtClose_unoffered : ∀ st ∈ [TrackState.unbid, .lost, .queued],
    EventRaised (bothRaised st) .closePoint 0x0B10 ∧ EventRaised (bothRaised st) .sendDeadline 0x0B10 ∧
      EventRaised (atClose st) .closePoint 0x0B10 ∧ ¬ EventRaised (atClose st) .sendDeadline 0x0B10 ∧
      findRecord 0x0B10 (atClose st) = some { record with state := st, best := some ⟨6016, 3⟩ } := by decide

/-- The claim with score 5000 is counted: heard in time, or still in the receive buffer. -/
theorem witness_UnwonCasesLeaveAtClose_outbid :
    Outbid (holding claim5000 (atClose .sent)) 0x0B10 { record with state := .sent } ⟨.A, 6016, true⟩ ∧
      Outbid (holding claim5000 (atClose .unbacked)) 0x0B10 { record with state := .unbacked } ⟨.A, 6016, true⟩ ∧
      Outbid (atClose .sent) 0x0B10 { record with state := .sent, best := some ⟨5000, 2⟩ } ⟨.A, 6016, true⟩ :=
  ⟨.inr (by decide), .inr (by decide), .inl ⟨_, rfl, by decide⟩⟩

/-- The claim of an UNBACKED record is in transmission. -/
theorem witness_UnwonCasesLeaveAtClose_sending :
    claimInTransmission 0x0B10 { atClose .unbacked with txQueue := sending.txQueue } = true := by decide

/-- An UNBACKED record whose own bid no claim beats, its build in HELD or in OPEN. -/
theorem witness_UnwonCasesLeaveAtClose_best : ∀ st ∈ [BuildState.held, .opened],
    ¬ Outbid (withA st (atClose .unbacked)) 0x0B10
      { record with state := .unbacked, best := some ⟨6016, 3⟩ } ⟨.A, 6016, true⟩ := by
  rintro st hst (⟨c, h, hb⟩ | h)
  · cases h
    revert st
    decide
  · revert st
    decide

theorem witness_UnwonCasesLeaveAtClose_forfeit :
    EventRaised (withA .held (atClose .unbacked)) .closePoint 0x0B10 ∧
      findRecord 0x0B10 (withA .held (atClose .unbacked)) =
        some { record with state := .unbacked, best := some ⟨6016, 3⟩ } ∧
      claimInTransmission 0x0B10 (withA .held (atClose .unbacked)) = false ∧
      ((withA .held (atClose .unbacked)).build .A).state ≠ .opened ∧
      (withA .held (atClose .unbacked)).txQueue.length < 8 := by decide

theorem witness_UnwonCasesLeaveAtClose_placed :
    ((withA .opened (atClose .unbacked)).build .A).state = .opened ∧
      ((withA .opened (atClose .unbacked)).build .A).plan.length < (withA .opened (atClose .unbacked)).credits .A ∧
      buildCandidate (withA .opened (atClose .unbacked)) .A record.desc =
        some ⟨.A, 0, false, ⟨false, ⟨3, 1, 2, 1⟩, 0, 6016⟩⟩ := by decide

theorem witness_OnlyTheBestClaimIsWon :
    ∃ t, exec (.closePoint 0x0B10) (atClose .sent) = .next t ∧ (∀ p ∈ (atClose .sent).pick, p.tag ≠ 0x0B10) ∧
      ∃ p ∈ t.pick, p.tag = 0x0B10 :=
  ⟨after (.closePoint 0x0B10) (atClose .sent), rfl, by decide, by decide⟩

theorem witness_NoticesAreCheckedInOrder :
    (holding notice ready).rxBuffer = notice :: [] ∧ kindOf notice = 0 ∧ (holding notice ready).station = .run := by
  decide

theorem witness_NoticesAreCheckedInOrder_ignored : ∀ st ∈ [StationState.awaitConfig, .stalled, .silent],
    State.station (holding notice { ready with station := st }) = st := by decide

/-- The checks in their order: a height of 121, a tag held, the close point reached on its count, 24 records held. -/
theorem witness_NoticesAreCheckedInOrder_refusals :
    noticeRefusal [0, 1, 0, 0, 0, 1, 0x11, 121, 0, 1, 0, 0] ready = some .badNotice ∧
      noticeRefusal notice.payload contested = some .dupNotice ∧
      noticeRefusal notice.payload { ready with belt := 164 } = some .lateNotice ∧
      noticeRefusal [0, 1, 0xFD, 0x20, 0, 1, 0x11, 120, 0, 1, 0, 0] { full with belt := 163 } = some .trackFull ∧
      noticeRefusal notice.payload { ready with belt := 163 } = none := by decide

theorem witness_WantedNoticeIsBid :
    (holding notice ready).rxBuffer = notice :: [] ∧ kindOf notice = 0 ∧ (holding notice ready).station = .run ∧
      ⟨(wordAt notice.payload 4).toNat, (byteAt notice.payload 6).toNat / 16, (byteAt notice.payload 6).toNat % 16,
        (byteAt notice.payload 7).toNat, (wordAt notice.payload 8).toNat, (byteAt notice.payload 10).toNat,
        (byteAt notice.payload 11).toNat % 2 == 1, wordAt notice.payload 2⟩ = record.desc ∧
      max record.desc.h 10 = record.desc.h ∧
      max record.desc.weight 1 = record.desc.weight ∧ wordAt notice.payload 0 = 0x0B10 ∧
      1 ≤ record.desc.article ∧ record.desc.article ≤ 4095 ∧ record.desc.w ≤ 3 ∧ record.desc.d ≤ 3 ∧
      record.desc.h ≤ 120 ∧ record.desc.weight ≤ 1023 ∧ ready.track = [] ∧
      32768 ≤ (ready.belt - (64800#16 + ready.line.closeDist)).toNat ∧
      32768 ≤ (ready.belt - (64800#16 + ready.line.closeDist - ready.line.guardDist)).toNat ∧
      ready.buildA.plan = [] ∧ ready.buildB.plan = [] ∧
      stationCandidate (holding notice ready) record.desc =
        some ⟨.A, 0, false, ⟨false, ⟨3, 1, 2, 1⟩, 0, 6016⟩⟩ ∧ ready.throttled = false := by decide

/-- Both builds eligible with the same candidate, at equal scores; a build with a scan due, one without credits left. -/
theorem witness_WantedNoticeIsBid_candidates :
    EligibleToBid { ready with buildB := openA } .A ∧ EligibleToBid { ready with buildB := openA } .B ∧
      stationCandidate { ready with buildB := openA } record.desc =
        some ⟨.A, 0, false, ⟨false, ⟨3, 1, 2, 1⟩, 0, 6016⟩⟩ ∧
      buildCandidate { ready with buildB := openA } .B record.desc =
        some ⟨.B, 0, false, ⟨false, ⟨3, 1, 2, 1⟩, 0, 6016⟩⟩ ∧
      ¬ EligibleToBid { ready with buildA := { openA with scanDue := some .step } } .A ∧
      ¬ EligibleToBid { ready with buildA := { openA with plan := List.replicate 4 entry } } .A ∧
      EligibleToBid { ready with buildA := { openA with plan := List.replicate 3 entry } } .A := by decide

/-- What build A offers for case 0B10H: its line 0, with no BASE flag, under the reserve of its open BASE line 1. -/
theorem witness_WantedNoticeIsBid_offered :
    OffersCandidate ready record.desc ⟨.A, 0, false, ⟨false, ⟨3, 1, 2, 1⟩, 0, 6016⟩⟩ :=
  ⟨order, ⟨412, false, 3, 0, 0⟩, true, rfl, rfl, rfl, rfl, by decide,
    fun _ _ h => absurd h (Nat.not_lt_zero _), by decide, by decide, by decide⟩

theorem witness_HeardClaimsAreCompared :
    kindOf claim9088 = 1 ∧ findRecord 0x0B10 (holding claim9088 ready) = none ∧
      ¬ BetterClaim (heardOf claim9088) 6016 3 ∧ wordAt claim9088.payload 0 = 0x0B10 ∧
      findRecord 0x0B10 (holding claim9088 contested) = some record ∧ record.best = none := by decide

theorem witness_BetterClaimLosesTheContest :
    kindOf claim5000 = 1 ∧ wordAt claim5000.payload 0 = 0x0B10 ∧
      findRecord 0x0B10 (holding claim5000 contested) = some record ∧ record.best = none ∧
      findEntry .A 0x0B10 (holding claim5000 contested) = some entry ∧
      BetterClaim (heardOf claim5000) 6016 (holding claim5000 contested).number := by decide

/-- A sweep stands before an UNBID record of case 0B10H. -/
def sweeping : State :=
  { ready with track := [{ record with state := .unbid, bid := none }], sweep := some 0, pendingSweep := true }

theorem witness_SweepOffersTheNextRecord_bid :
    sweeping.sweep = some 0 ∧ sweeping.track[0]? = some { record with state := .unbid, bid := none } ∧
      tagPlanned 0x0B10 sweeping = false ∧
      stationCandidate sweeping record.desc = some ⟨.A, 0, false, ⟨false, ⟨3, 1, 2, 1⟩, 0, 6016⟩⟩ ∧
      TrackTagsDistinct sweeping ∧ sweeping.throttled = false := by decide

/-- A best heard equal to the candidate, and THROTTLE_CUT equal to its score, each leave the record unbid. -/
theorem witness_SweepOffersTheNextRecord_unbid :
    ¬ BetterClaim ⟨6016, sweeping.number⟩ 6016 3 ∧ ¬ BetterClaim ⟨6016, sweeping.number⟩ 5000 2 ∧
      (State.throttled { sweeping with throttled := true } = true ∧ sweeping.own2.throttleCut ≤ 6016) := by decide

theorem witness_SweepOffersTheNextRecord_passed :
    State.track { sweeping with track := [record] } = [record] ∧ record.state ≠ .unbid := by decide

theorem witness_ReceivedFramesAreBuffered :
    frameAccepted ⟨0x700, []⟩ = false ∧ frameAccepted notice = true ∧ sourceStation notice ≠ running.stationNumber ∧
      running.rxBuffer.length < 16 ∧ 16 ≤ full.rxBuffer.length := by decide

/-- Frames at the ends of R175: each kind at its required length and one byte short of it, the station details 12 and 13
of a CLAIM, 0, 13, 15 and 16 of a MISS, unlisted codes, and the kinds 6 and 7. -/
theorem witness_ReceivedFramesAreBuffered_discarded :
    (∀ x ∈ [(0x000, 12), (0x101, 5), (0x10C, 5), (0x201, 3), (0x20C, 3), (0x210, 3), (0x301, 11), (0x302, 3),
        (0x303, 1), (0x308, 2), (0x30D, 1), (0x400, 5), (0x41F, 0), (0x500, 0), (0x510, 14), (0x531, 11), (0x550, 3)],
      frameAccepted ⟨BitVec.ofNat 11 x.1, List.replicate x.2 0⟩ = true) ∧
    (∀ x ∈ [(0x000, 11), (0x101, 4), (0x100, 5), (0x10D, 5), (0x201, 2), (0x200, 3), (0x20D, 3), (0x20F, 3),
        (0x301, 10), (0x302, 2), (0x306, 16), (0x30A, 16), (0x400, 4), (0x510, 13), (0x531, 10), (0x550, 2),
        (0x560, 16), (0x600, 16), (0x700, 16)], frameAccepted ⟨BitVec.ofNat 11 x.1, List.replicate x.2 0⟩ = false) ∧
    frameAccepted ⟨0x302, [0, 0, 4, 0, 0, 0, 0, 0, 0, 0, 0, 0, 0, 0]⟩ = false ∧
    frameAccepted ⟨0x302, [0, 0, 5]⟩ = true ∧ sourceStation ⟨0x437, []⟩ = some 3 ∧
    sourceStation ⟨0x550, [4]⟩ = some 4 ∧ sourceStation ⟨0x510, [4]⟩ = none := by decide

theorem witness_ReceivedFramesAreBuffered_own :
    sending.ownSent = some ownClaim ∧ (after .transmissionComplete sending).ownSent = some ownClaim ∧
      frameAccepted ownClaim = true ∧
      sourceStation ownClaim = sending.stationNumber := by decide

theorem witness_DuplicateNumberSilencesTheStation :
    frameAccepted ⟨0x113, claim5000.payload⟩ = true ∧ contested.station ≠ .silent ∧ contested.stationNumber ≠ none ∧
      sourceStation ⟨0x113, claim5000.payload⟩ = contested.stationNumber ∧ contested.ctx = none ∧
      LineCarriesOne contested ∧ contested.rxBuffer.length < 16 := by decide

theorem witness_FramesWithoutActionAreRemoved :
    kindOf ⟨0x207, []⟩ = 2 ∧ kindOf ⟨0x471, []⟩ = 4 ∧ kindOf ⟨0x540, []⟩ = 5 ∧ highNibble ⟨0x540, []⟩ = 4 ∧
      highNibble ⟨0x550, []⟩ = 5 := by decide

theorem witness_LowestIdentifierIsSent :
    contested.station ≠ .silent ∧ contested.txQueue ≠ [] ∧ (∀ f ∈ contested.txQueue, f.inTransmission = false) := by
  decide

/-- The frames of chapter 12 in their bytes: CLAIM of score 6016 (01 section 1.6), REPLY with no build, FAULT REPORT
padded from 11 bytes to 12, and the two identifiers that hold no station. -/
theorem test_frames_in_bytes :
    (TxBody.claim 0x0B10 6016 .A).frame 3 = ⟨0x113, [0x0B, 0x10, 0x17, 0x80, 0]⟩ ∧
      (TxBody.reply 5 1 none .accepted 0).frame 3 = ⟨1072, [5, 1, 255, 0, 0]⟩ ∧
      (TxBody.palletDone .B 70488 11 2580 true).frame 3 = ⟨1073, [1, 0, 1, 0x13, 0x58, 0, 11, 0, 0, 0x0A, 0x14, 1]⟩ ∧
      (TxBody.faultReport ⟨true, true, .stop, some .stall, some .B, some 0x0B10, 804, 70000⟩).frame 3 =
        ⟨1075, [15, 7, 1, 0x0B, 0x10, 0x03, 0x24, 0, 1, 0x11, 0x70, 0]⟩ ∧
      (TxBody.ready 4 3).frame 3 = ⟨1360, [3, 4, 3]⟩ ∧ (TxBody.hello false false false).identNat 3 = 1344 := by decide

/-- The frame of the own bid of case 0B10H on the line. -/
def onTheLine (noRetry : Bool) : TxFrame := ⟨.claim 0x0B10 6016 .A, true, noRetry, true⟩

theorem witness_TransmissionsEnd :
    sending.txQueue = [] ++ onTheLine false :: [] ∧ (onTheLine false).isOwnClaim 0x0B10 = true ∧
      findRecord 0x0B10 sending = some record := by decide

theorem witness_TransmissionsEnd_aborted :
    (abortClaim 0x0B10 sending).txQueue = [] ++ onTheLine true :: [] ∧ (onTheLine true).isOwnClaim 0x0B10 = true ∧
      findRecord 0x0B10 (abortClaim 0x0B10 sending) = some record := by decide

/-- A frame that no record calls for: one of another kind, left on the line by a line clear. -/
theorem witness_TransmissionsEnd_cleared :
    ∀ tag, TxFrame.isOwnClaim tag ⟨.miss 1 .absent, true, true, false⟩ = false := fun _ => rfl

/-- ORDER OPEN with 1 and with 32 lines, on a build in EMPTY and on one in LOADING. -/
theorem witness_OrderOpenStartsLoading : ∀ n ∈ [1, 32], ∀ st ∈ [BuildState.empty, .loading],
    TakesBuildCommand (holding (command 1 [0, 0, 0, 0, 1, 0, BitVec.ofNat 8 n, 1, 0, 0, 0]) (withA st ready)) 1
      (command 1 [0, 0, 0, 0, 1, 0, BitVec.ofNat 8 n, 1, 0, 0, 0]) [] .A ∧ (withA st ready).txQueue.length ≤ 6 := by
  decide

/-- A build in LOADING, before an ORDER LINES with both its lines. -/
def loading : State :=
  holding (command 2 [0, 0, 2, 0x01, 0x9C, 3, 0x80, 77, 2])
    { running with buildA := { Build.atPowerOn with state := .loading, order := some order } }

theorem witness_OrderLinesFillTheOrder :
    TakesBuildCommand loading 2 (command 2 [0, 0, 2, 0x01, 0x9C, 3, 0x80, 77, 2]) [] .A ∧
      (loading.build .A).order = some order ∧ (loading.build .A).nextLine = 0 ∧ PortHeld loading ∧
      (∀ l ∈ orderLinesOf [0, 0, 2, 0x01, 0x9C, 3, 0x80, 77, 2],
        1 ≤ l.article ∧ l.article ≤ 4095 ∧ 1 ≤ l.ordered) := by decide

/-- Cancels in LOADING, in OPEN and in HELD, on a grid that is not all-deck. -/
theorem witness_OrderCancelGivesUpTheOrder : ∀ st ∈ [BuildState.loading, .opened, .held],
    TakesBuildCommand (holding (command 3 [0]) (withA st ready)) 3 (command 3 [0]) [] .A ∧
      PortHeld (withA st ready) ∧ ((withA st ready).build .A).plan = [] ∧
      ((withA st ready).build .A).order ≠ none ∧ ((withA st ready).build .A).ending = .noEnding ∧
      (∃ i : Fin 24, ((withA st ready).build .A).built.height[i] ≠ 0) := by decide

/-- A cancel in HELD on an all-deck grid. -/
theorem witness_OrderCancelGivesUpTheOrder_allDeck :
    TakesBuildCommand (holding (command 3 [0]) { ready with buildA := { openA with built := Surface.deck } }) 3
      (command 3 [0]) [] .A ∧ (∀ i : Fin 24, Surface.deck.height[i] = 0) := by decide

/-- Cancels and releases of a build with a CONTESTED, a WON and a PLACING entry. -/
theorem witness_OrderCancelGivesUpTheOrder_plans : ∀ s ∈ [contested, won, placing],
    TakesBuildCommand (holding (command 3 [0]) s) 3 (command 3 [0]) [] .A ∧ PortHeld s ∧
      (s.build .A).state = .opened ∧ (s.build .A).order ≠ none ∧ (s.build .A).ending = .noEnding ∧
      (s.build .A).plan ≠ [] ∧ ((s.build .A).plan.map PlanEntry.tag).Nodup ∧
      s.txQueue.length + (s.build .A).plan.length ≤ 5 := by decide

theorem witness_BuildReleaseSendsThePalletAway_plans :
    ∀ s ∈ [contested, won, placing, { placing with inFlight := none }],
    TakesBuildCommand (holding (command 5 [0]) s) 5 (command 5 [0]) [] .A ∧ PortHeld s ∧
      (s.build .A).state = .opened ∧ (s.build .A).ending ≠ .release ∧ (s.build .A).plan ≠ [] ∧
      ((s.build .A).plan.map PlanEntry.tag).Nodup ∧ s.txQueue.length + (s.build .A).plan.length ≤ 5 := by decide

/-- The three rows of R30 at a cancel and a release: the record is SENT, QUEUED with its claim held, QUEUED with its
claim in transmission. -/
theorem witness_OrderCancelGivesUpTheOrder_records :
    ∀ x ∈ [(TrackState.sent, { contested with txQueue := [] }), (.queued, contested), (.queued, sending)],
    ∀ c ∈ [3, 5],
      TakesBuildCommand (holding (command c [0]) { x.2 with track := [{ record with state := x.1 }] }) c
        (command c [0]) [] .A ∧
      PortHeld x.2 ∧ (x.2.build .A).state = .opened ∧ (x.2.build .A).order ≠ none ∧
      (x.2.build .A).ending = .noEnding ∧ (x.2.build .A).plan = [entry] ∧ entry.state = .contested ∧
      x.2.txQueue.length + (x.2.build .A).plan.length ≤ 5 ∧
      findRecord 0x0B10 { x.2 with track := [{ record with state := x.1 }] } = some { record with state := x.1 } ∧
      (claimInTransmission 0x0B10 x.2 = true ↔ x.2.txQueue = [⟨.claim 0x0B10 6016 .A, true, false, true⟩]) := by
  decide

/-- R30: a cancel while the claim is in transmission leaves its record UNBACKED, the frame on the line. -/
theorem test_orderCancel_unbacks :
    (after .orderCancel (holding (command 3 [0]) sending)).track.map TrackRecord.state = [.unbacked] ∧
      (after .orderCancel (holding (command 3 [0]) sending)).ctx = some ownClaim := by decide

/-- The PLACING entry of placing has its PLACE in flight. -/
theorem witness_BuildReleaseSendsThePalletAway_stays :
    { entry with state := .placing } ∈ (placing.build .A).plan ∧ ∃ g, placing.inFlight = some g ∧ g.kind = .place ∧
      g.build = .A ∧ g.tag = some 0x0B10 ∧ g.discard = false := ⟨by decide, _, rfl, by decide⟩

theorem witness_BuildResumeMakesARescanDue :
    TakesBuildCommand (holding (command 4 [0]) (withA .held ready)) 4 (command 4 [0]) [] .A ∧
      PortHeld (withA .held ready) ∧ ((withA .held ready).build .A).order ≠ none ∧
      ((withA .held ready).build .A).scanDue ≠ some .rescan ∧
      ((withA .held ready).build .A).scanInFlight = none := by decide

theorem witness_BuildReleaseSendsThePalletAway : ∀ st ∈ [BuildState.opened, .held],
    TakesBuildCommand (holding (command 5 [0]) (withA st ready)) 5 (command 5 [0]) [] .A ∧
      PortHeld (withA st ready) ∧ ((withA st ready).build .A).plan = [] ∧
      ((withA st ready).build .A).ending ≠ .release := by decide

theorem witness_RefusedBuildCommandsChangeNothing : ∀ code ∈ [1, 2, 3, 4, 5],
    isCode 3 code (command code [0]) = true ∧ ready.stationNumber = some (highNibble (command code [0])) ∧
      highNibble (command code [0]) ≠ 0 ∧ isCode 3 code ⟨BitVec.ofNat 11 (0x300 + code), [0]⟩ = true ∧
      highNibble ⟨BitVec.ofNat 11 (0x300 + code), [0]⟩ = 0 ∧ waiting.station = .awaitConfig ∧
      ready.station ≠ .awaitConfig ∧ ready.station ≠ .silent ∧ ready.txQueue.length < 8 := by decide

/-- The nine commands to station 4, and in SILENT. -/
theorem witness_RefusedBuildCommandsChangeNothing_others : ∀ code ∈ [1, 2, 3, 4, 5, 8, 9, 12, 13],
    isCode 3 code ⟨BitVec.ofNat 11 (0x340 + code), [0]⟩ = true ∧
      highNibble ⟨BitVec.ofNat 11 (0x340 + code), [0]⟩ ≠ 0 ∧
      ready.stationNumber ≠ some (highNibble ⟨BitVec.ofNat 11 (0x340 + code), [0]⟩) ∧ ready.station ≠ .silent ∧
      isCode 3 code (command code [0]) = true ∧ silent.station = .silent := by decide

/-- The build field names neither build at 2, an UNUSED position, a build in CLOSING, one in SWAPPING. -/
theorem witness_RefusedBuildCommandsChangeNothing_states :
    buildField [2] = none ∧ buildField [0] = some .A ∧ buildField [1] = some .B ∧
      ((withA .unused ready).build .A).state = .unused ∧ ((withA .closing ready).build .A).state = .closing ∧
      ((withA .swapping ready).build .A).state = .swapping := by decide

/-- ORDER OPEN with 0 and with 33 lines; ORDER LINES with a wrong first index, with 0 and with 5 lines, with more lines
than the order has, and with an article 0; each on a build in a state of its own row. -/
theorem witness_RefusedBuildCommandsChangeNothing_tables :
    (byteAt [0, 0, 0, 0, 1, 0, 0] 6).toNat = 0 ∧ 32 < (byteAt [0, 0, 0, 0, 1, 0, 33] 6).toNat ∧
      (loading.build .A).state = .loading ∧ (loading.build .A).order = some order ∧
      (byteAt [0, 1, 1] 1).toNat ≠ (loading.build .A).nextLine ∧
      (byteAt [0, 0, 0] 1).toNat = (loading.build .A).nextLine ∧ (byteAt [0, 0, 0] 2).toNat = 0 ∧
      4 < (byteAt [0, 0, 5] 2).toNat ∧ order.lineCount < (byteAt [0, 0, 3] 1).toNat + (byteAt [0, 0, 3] 2).toNat ∧
      (∃ l ∈ orderLinesOf [0, 0, 1, 0, 0, 3], l.article = 0) ∧ (running.build .A).state = .empty ∧
      ((withA .held ready).build .A).state = .held ∧ ((withA .opened ready).build .A).state = .opened ∧
      (ready.build .A).order ≠ none := by decide

/-- Endings that wait, a rescan due, and a build held with no order. -/
theorem witness_RefusedBuildCommandsChangeNothing_endings :
    ∀ x ∈ [{ openA with ending := .cancel }, { openA with ending := .release },
        { openA with state := .held, scanDue := some .rescan }, { openA with state := .held, order := none }],
      State.buildA { ready with buildA := x } = x ∧ (State.build { ready with buildA := x } .A) = x := by decide

theorem witness_ClearPairingIsKept :
    TakesCommand (holding (command 8 [0, 7]) ready) 8 (command 8 [0, 7]) [] ∧
      TakesCommand (holding (command 8 [0, 7]) waiting) 8 (command 8 [0, 7]) [] ∧
      TakesCommand (holding (command 9 [0, 7]) ready) 9 (command 9 [0, 7]) [] ∧
      ready.pairing ≠ some (wordAt [0, 7] 0) := by decide

/-- A CLEAR that was prepared, with a PLACE in flight and a frame held. -/
def prepared : State :=
  holding (command 9 [0, 7]) { placing with pairing := some 7, txQueue := [TxFrame.fresh (.miss 1 .absent)] }

theorem witness_LineClearResetsTheWork :
    TakesCommand prepared 9 (command 9 [0, 7]) [] ∧ prepared.station ≠ .awaitConfig ∧
      prepared.pairing = some (wordAt [0, 7] 0) ∧ (∀ g ∈ prepared.txQueue, g.inTransmission = false) := by decide

theorem witness_RollCallIsAnsweredWhileWaiting :
    (holding ⟨0x500, []⟩ waiting).rxBuffer = ⟨0x500, []⟩ :: [] ∧ isStartUp 0 ⟨0x500, []⟩ = true ∧
      waiting.txQueue.length < 8 := by decide

/-- The payloads of LINE SETUP, STATION SETUP 1 and STATION SETUP 2 with the values line, own1 and own2. -/
def linePayload : List Byte := [3, 0x84, 0, 120, 2, 3, 0xE8, 0, 200, 0, 250, 0, 200, 2]
def own1Payload : List Byte := [5, 0xDC, 0, 40, 0, 100, 1, 0x2C, 4, 4, 1, 30, 20, 30]
def own2Payload : List Byte := [3, 2, 20, 1, 3, 1, 0x13, 0x88, 0, 50, 10]

/-- A LINE SETUP that passes and one that fails, and STATION SETUP frames to station 3. -/
theorem witness_SetupFramesAreTakenOrRefused :
    isStartUp 1 ⟨0x510, []⟩ = true ∧ isStartUp 2 ⟨0x523, []⟩ = true ∧ isStartUp 3 ⟨0x533, []⟩ = true ∧
      waiting.stationNumber = some (detailOf ⟨0x523, []⟩ % 16) ∧ waiting.station = .awaitConfig ∧
      waiting.setup1 = none ∧ waiting.setup2 = none ∧ running.station = .run ∧ wordAt linePayload 0 = 900 ∧
      wordAt linePayload 2 = 120 ∧ wordAt [] 0 = 0 := by decide

/-- The three setup frames in SILENT, and STATION SETUP frames to station 4 and to station 0 at station 3. -/
theorem witness_SetupFramesAreTakenOrRefused_removed :
    (∀ x ∈ [(1, 0x510), (2, 0x523), (3, 0x533)],
      (holding ⟨BitVec.ofNat 11 x.2, []⟩ silent).rxBuffer = ⟨BitVec.ofNat 11 x.2, []⟩ :: [] ∧
        isStartUp x.1 ⟨BitVec.ofNat 11 x.2, []⟩ = true ∧ silent.station = .silent) ∧
    (∀ x ∈ [(2, 0x520), (2, 0x524), (3, 0x530), (3, 0x534)], isStartUp x.1 ⟨BitVec.ofNat 11 x.2, []⟩ = true ∧
      waiting.stationNumber ≠ some (detailOf ⟨BitVec.ofNat 11 x.2, []⟩ % 16)) := by decide

/-- R157: a STATION SETUP 1 frame to station 4 is removed, with no REPLY. -/
theorem test_stationSetup1_other_station :
    (after .stationSetup1 (holding ⟨0x524, own1Payload⟩ waiting)).setup1 = none ∧
      (after .stationSetup1 (holding ⟨0x524, own1Payload⟩ waiting)).rxBuffer = [] ∧
      (after .stationSetup1 (holding ⟨0x524, own1Payload⟩ waiting)).txQueue = [] := by decide

/-- The ranges at their ends: CLOSE_DIST 1 and 32767 with GUARD_DIST 0, EYE_DIST + EYE_TOL 32767, credits 7 and 1, and
CLOSE_DIST + EYE_TOL one short of EYE_DIST. -/
theorem witness_SetupFramesAreTakenOrRefused_ranges :
    lineSetupOk { line with closeDist := 1, guardDist := 0 } none = true ∧
      lineSetupOk { line with closeDist := 32767 } none = true ∧
      lineSetupOk { line with closeDist := 0x8000 } none = false ∧
      setup1Ok { own1 with eyeDist := 32727, creditsA := 7, creditsB := 1 } none = true ∧
      setup1Ok { own1 with eyeDist := 32728 } none = false ∧
      lineSetupOk { line with closeDist := 1459 } (some own1) = true ∧
      lineSetupOk { line with closeDist := 1460 } (some own1) = false := by decide

theorem witness_ThirdSetupFrameReachesReady :
    lineSetupOf linePayload = line ∧ setup1Of own1Payload = own1 ∧ setup2Of own2Payload = own2 ∧
      lineSetupOk line (some own1) = true ∧ setup1Ok own1 (some line) = true ∧
      isStartUp 1 ⟨0x510, linePayload⟩ = true ∧ isStartUp 2 ⟨0x523, own1Payload⟩ = true ∧
      isStartUp 3 ⟨0x533, own2Payload⟩ = true ∧ waiting.stationNumber = some (detailOf ⟨0x523, own1Payload⟩ % 16) ∧
      waiting.stationNumber = some (detailOf ⟨0x533, own2Payload⟩ % 16) ∧ waiting.station = .awaitConfig ∧
      waiting.txQueue.length ≤ 4 ∧ waiting.buildA = Build.atPowerOn ∧ waiting.buildB = Build.atPowerOn := by
  decide

theorem witness_QueriesReportAndClear :
    TakesCommand (holding (command 12 [1]) running) 12 (command 12 [1]) [] ∧
      TakesCommand (holding (command 13 [0]) running) 13 (command 13 [0]) [] ∧
      TakesCommand (holding (command 13 [0]) full) 13 (command 13 [0]) [] ∧ full.txQueue.length = 8 := by decide

theorem witness_QueriesReportAndClear_no_place :
    TakesCommand (holding (command 12 [1]) full) 12 (command 12 [1]) [] ∧
      (holding (command 12 [1]) silent).rxBuffer = command 12 [1] :: [] ∧ silent.station = .silent ∧
      isCode 3 12 (command 12 [1]) = true ∧ isCode 3 13 (command 13 [0]) = true := by decide

theorem witness_QueriesReportAndClear_one_place :
    TakesCommand (holding (command 12 [1]) { running with
      txQueue := List.replicate 7 (TxFrame.fresh (.miss 1 .absent)) }) 12 (command 12 [1]) [] := by decide

theorem witness_RunBeaconBlinks :
    running.station = .run ∧ running.buildA.state ≠ .opened ∧ running.buildB.state ≠ .opened ∧
      running.timeBase.toNat < 4294967000 := by decide

theorem witness_RobotStateSetsTheFlag :
    [(1 : Byte)].length ≤ 48 ∧ recordPasses 0x84 0 [1] 0x7B = true ∧ recordPasses 0x84 0 [0] 0x7C = true ∧
      byteAt [1] 0 ≠ 0 ∧ byteAt [0] 0 = 0 ∧ running.robotReady = false := by decide +kernel

theorem witness_LinkErrorsAndStaleRecordsAreCounted :
    [(0 : Byte)].length ≤ 48 ∧ recordPasses 0x84 0 [0] 0x7B = false ∧ 48 < (49 : Byte).toNat ∧
      partialRecord (running.receiver.held ++ [0x84]) = true ∧ running.inFlight = none ∧
      placing.inFlight = some ⟨.place, 17, .A, some 0x0B10, 0, 3000, false⟩ ∧ (17 : Byte) ≠ 16 := by decide +kernel

/-- An operation in flight, marked to be discarded. -/
def discarded (s : State) : State := { s with inFlight := s.inFlight.map (fun g => { g with discard := true }) }

theorem witness_LinkErrorsAndStaleRecordsAreCounted_marked :
    (discarded placing).inFlight = some ⟨.place, 17, .A, some 0x0B10, 0, 3000, true⟩ ∧
      (discarded swapping).inFlight = some ⟨.swap, 17, .A, none, 0, 30000, true⟩ ∧
      (discarded (scanning .opened .step)).inFlight = some ⟨.scan, 17, .A, none, 0, 2000, true⟩ ∧
      (discarded placing).robotReady = false ∧ recordPasses 0x81 17 [1, 0, 0] (check 0x81 17 [1, 0, 0]) = true ∧
      recordPasses 0x83 17 [] (check 0x83 17 []) = true ∧
      recordPasses 0x82 17 gridBytes (check 0x82 17 gridBytes) = true ∧
      (byteAt [1, 0, 0] 0).toNat = 1 ∧ (byteAt [0] 0).toNat = 0 ∧
      (byteAt [5] 0).toNat = 5 := by decide +kernel

/-- A scan of a build in SWAPPING with the release mark. -/
theorem witness_LinkErrorsAndStaleRecordsAreCounted_released :
    ∃ fl, (State.build { scanning .swapping .final with
      buildA := { openA with state := .swapping, scanInFlight := some ⟨.final, false, true⟩ } } .A).scanInFlight = some fl ∧
      fl.release = true := ⟨_, rfl, rfl⟩

theorem witness_PlacedCaseStandsOnThePallet :
    recordPasses 0x81 17 [1, 0, 180] (check 0x81 17 [1, 0, 180]) = true ∧
      placing.inFlight = some ⟨.place, 17, .A, some 0x0B10, 0, 3000, false⟩ ∧
      findEntry .A 0x0B10 placing = some { entry with state := .placing } ∧ (byteAt [1, 0, 180] 0).toNat = 1 ∧
      (wordAt [1, 0, 180] 1).toNat = 180 ∧ (placing.build .A).state = .opened ∧
      (placing.build .A).ending = .noEnding ∧ placing.robotReady = false := by decide +kernel

/-- Build A of placing in a state, with an ending. -/
def placingIn (st : BuildState) (en : Ending) (s : State) : State :=
  { s with buildA := { s.buildA with state := st, ending := en } }

/-- Builds in OPEN and in HELD with each ending, whose plan list is empty after the case. -/
theorem witness_PlacedCaseStandsOnThePallet_endings : ∀ st ∈ [BuildState.opened, .held],
    ∀ en ∈ [Ending.noEnding, .cancel, .release],
      (placingIn st en placing).inFlight = some ⟨.place, 17, .A, some 0x0B10, 0, 3000, false⟩ ∧
      findEntry .A 0x0B10 (placingIn st en placing) = some { entry with state := .placing } ∧
      ((placingIn st en placing).build .A).state = st ∧ ((placingIn st en placing).build .A).ending = en ∧
      ((placingIn st en placing).build .A).plan = [{ entry with state := .placing }] ∧
      (placingIn st en placing).robotReady = false ∧ (placingIn st en placing).station ≠ .silent ∧
      (placingIn st en placing).txQueue.length + 1 ≤ 6 := by decide

/-- R133: the case takes the greatest built height from 20 to 50, which starts the second band of VERIFY_STEP 50; from
20 to 49 it starts none. -/
theorem witness_PlacedCaseStandsOnThePallet_scan :
    baseOver (Vector.replicate 24 20) entry.foot + 30 = 50 ∧ 20 / own2.verifyStep < 50 / own2.verifyStep ∧
      ¬ 20 / own2.verifyStep < 49 / own2.verifyStep ∧ own2.verifyStep = 50 ∧ placing.buildA.scanDue = none ∧
      (max 1 (min 180 4095) + entry.foot.fx * entry.foot.fy - 1) / (entry.foot.fx * entry.foot.fy) = 90 ∧
      (∀ i : Fin 24, InFootprint entry.foot i → ¬ grid.margin[i] < 90) ∧
      (∃ i : Fin 24, InFootprint entry.foot i ∧ (Vector.replicate 24 89)[i] < 90) := by decide

/-- R133: a step scan falls due. -/
theorem test_placeDone_step_scan :
    (after (.placeDone 17 [1, 0, 180] (check 0x81 17 [1, 0, 180]))
      { placing with buildA := { placing.buildA with
        built := { grid with height := Vector.replicate 24 20 } } }).buildA.scanDue = some .step := by decide +kernel

/-- R60: a release that waits for the PLACE settles with the swap due. -/
theorem test_placeDone_release_settles :
    (after (.placeDone 17 [1, 0, 180] (check 0x81 17 [1, 0, 180])) (placingIn .held .release placing)).buildA.state =
      .swapping := by decide +kernel

theorem witness_FailedPlacementsStepTheStreak : ∀ o ∈ [2, 3, 4],
    recordPasses 0x81 17 [BitVec.ofNat 8 o, 0, 0] (check 0x81 17 [BitVec.ofNat 8 o, 0, 0]) = true ∧
      placing.inFlight = some ⟨.place, 17, .A, some 0x0B10, 0, 3000, false⟩ ∧
      findEntry .A 0x0B10 placing = some { entry with state := .placing } ∧ (placing.build .A).ending = .noEnding ∧
      placing.robotReady = false ∧ placing.station = .run ∧
      placing.streak + 1 < (if placing.cycles = 0 then placing.own2.q1 else placing.own2.q2) ∧
      placing.streak < 15 ∧ placing.txQueue.length < 8 ∧ (byteAt [BitVec.ofNat 8 o, 0, 0] 0).toNat = o ∧
      (placing.build .A).scanDue = none := by decide +kernel

/-- The first quick limit pauses the station, and the fifth cycle stalls it. -/
theorem witness_QuickLimitPausesOrStalls :
    running.station = .run ∧ State.streak { running with streak := 2 } + 1 = running.own2.q1 ∧ running.cycles = 0 ∧
      State.streak { running with streak := 1, cycles := 4 } + 1 = running.own2.q2 ∧ min (4 + 1) 255 = 5 ∧
      running.own2.stallLatch = true ∧ running.fault.valid = false := by decide

/-- PLACING with one failure short of the limit in force: q1 in the first cycle, q2 in the fifth. -/
def atLimit (cycles : Nat) : State := { placing with streak := if cycles = 0 then 2 else 1, cycles := cycles }

/-- The outcomes MISSED, DROPPED and REFUSED and the expiry at the first quick limit, which pauses, and at the fifth,
which stalls; with no ending, and with a release that waits. -/
theorem witness_QuickLimitPausesOrStalls_exec : ∀ n ∈ [0, 4], ∀ en ∈ [Ending.noEnding, .release],
    (placingIn .opened en (atLimit n)).inFlight = some ⟨.place, 17, .A, some 0x0B10, 0, 3000, false⟩ ∧
      findEntry .A 0x0B10 (placingIn .opened en (atLimit n)) = some { entry with state := .placing } ∧
      (((placingIn .opened en (atLimit n)).build .A).plan.map PlanEntry.tag).Nodup ∧
      ((placingIn .opened en (atLimit n)).build .A).ending = en ∧
      ((placingIn .opened en (atLimit n)).build .A).scanDue = none ∧
      (atLimit n).robotReady = false ∧ (atLimit n).station = .run ∧ (atLimit n).streak < 15 ∧
      (atLimit n).streak + 1 = (if (atLimit n).cycles = 0 then (atLimit n).own2.q1 else (atLimit n).own2.q2) ∧
      (atLimit n).fault.valid = false ∧ (atLimit n).own2.stallLatch = true ∧ (atLimit n).txQueue.length < 8 ∧
      (∀ o ∈ [2, 3, 4], recordPasses 0x81 17 [o, 0, 0] (check 0x81 17 [o, 0, 0]) = true) := by decide +kernel

theorem witness_ScanDataIsCompared : ∀ x ∈ [(BuildState.closing, ScanKind.final), (.opened, .step)],
    recordPasses 0x82 17 gridBytes (check 0x82 17 gridBytes) = true ∧
      (scanning x.1 x.2).inFlight = some ⟨.scan, 17, .A, none, 0, 2000, false⟩ ∧
      ((scanning x.1 x.2).build .A).scanInFlight = some ⟨x.2, false, false⟩ ∧
      ((scanning x.1 x.2).build .A).state = x.1 ∧ (scanning x.1 x.2).robotReady = false ∧
      (scanning x.1 x.2).station ≠ .silent ∧ (scanning x.1 x.2).txQueue.length ≤ 6 ∧
      (∀ i : Fin 24, (measuredHeights gridBytes)[i] ≤ grid.height[i] + line.verifyTol ∧
        grid.height[i] ≤ (measuredHeights gridBytes)[i] + line.verifyTol) := by decide +kernel

theorem witness_ScanDataIsCompared_mismatch :
    recordPasses 0x82 17 (List.replicate 48 0) (check 0x82 17 (List.replicate 48 0)) = true ∧
      ¬ grid.height[0] ≤ (measuredHeights (List.replicate 48 0))[0] + line.verifyTol ∧
      (scanning .opened .step).buildA.state = .opened := by decide +kernel

/-- A rescan in HELD, and mismatches in CLOSING and in HELD. -/
theorem witness_ScanDataIsCompared_held : ∀ x ∈ [(BuildState.held, ScanKind.rescan), (.closing, .final)],
    (scanning x.1 x.2).inFlight = some ⟨.scan, 17, .A, none, 0, 2000, false⟩ ∧
      ((scanning x.1 x.2).build .A).scanInFlight = some ⟨x.2, false, false⟩ ∧
      ((scanning x.1 x.2).build .A).state = x.1 ∧ ((scanning x.1 x.2).build .A).ending = .noEnding ∧
      (scanning x.1 x.2).robotReady = false ∧ (scanning x.1 x.2).fault.valid = false := by decide

/-- Case 0B10H is uncertain with a hypothesis set, and a scan for it is in flight. -/
def uncertainScan (u : Hypotheses) : State :=
  { placing with
    inFlight := some ⟨.scan, 17, .A, none, 0, 2000, false⟩
    buildA := { placing.buildA with
      plan := [{ entry with state := .placing, uncertain := some u }]
      scanInFlight := some ⟨.uncertain, true, false⟩ } }

/-- The heights of the grid with case 0B10H placed, as a SCAN DATA payload. -/
def placedBytes : List Byte := (grid.apply ⟨3, 1, 2, 1⟩ 30 180 25).height.toList.flatMap bytes2

/-- The uncertain case, with heights that show it placed and heights that show it not placed. -/
theorem witness_ScanDataIsCompared_uncertain : ∀ u ∈ [Hypotheses.placedOrNot, .notPlacedOnly],
    uncertainEntry ((uncertainScan u).build .A) = some { entry with state := .placing, uncertain := some u } ∧
      ((uncertainScan u).build .A).scanInFlight = some ⟨.uncertain, true, false⟩ ∧
      (uncertainScan u).robotReady = false ∧
      recordPasses 0x82 17 placedBytes (check 0x82 17 placedBytes) = true ∧
      (∀ i : Fin 24, (measuredHeights placedBytes)[i] =
        if covers ⟨3, 1, 2, 1⟩ i then baseOver grid.height ⟨3, 1, 2, 1⟩ + 30 else grid.height[i]) ∧
      ¬ (measuredHeights placedBytes)[9] ≤ grid.height[9] + line.verifyTol := by decide +kernel

theorem witness_SwapDoneEmptiesTheBuild :
    recordPasses 0x83 17 [] (check 0x83 17 []) = true ∧
      swapping.inFlight = some ⟨.swap, 17, .A, none, 0, 30000, false⟩ ∧ swapping.robotReady = false ∧
      swapping.station ≠ .silent ∧ swapping.txQueue.length < 8 := by decide +kernel

theorem witness_PlaceExpiryLeavesTheCaseUncertain :
    placing.inFlight = some ⟨.place, 17, .A, some 0x0B10, 0, 3000, false⟩ ∧
      findEntry .A 0x0B10 placing = some { entry with state := .placing } ∧
      (placing.build .A).ending = .noEnding ∧ (placing.build .A).scanDue = none ∧ placing.robotReady = false ∧
      placing.station = .run ∧
      placing.streak + 1 < (if placing.cycles = 0 then placing.own2.q1 else placing.own2.q2) ∧ placing.streak < 15 ∧
      placing.fault.valid = false := by decide

theorem witness_ScanAndSwapExpiriesHoldTheBuild : ∀ st ∈ [BuildState.opened, .closing],
    (scanning st .final).inFlight = some ⟨.scan, 17, .A, none, 0, 2000, false⟩ ∧
      ((scanning st .final).build .A).scanInFlight = some ⟨.final, false, false⟩ ∧
      ((scanning st .final).build .A).state = st ∧ (scanning st .final).robotReady = false ∧
      (scanning st .final).fault.valid = false ∧
      swapping.inFlight = some ⟨.swap, 17, .A, none, 0, 30000, false⟩ ∧ swapping.robotReady = false ∧
      swapping.fault.valid = false := by decide

/-- A rescan in HELD, and scans in flight in the other states that an expiry leaves as they are. -/
theorem witness_ScanAndSwapExpiriesHoldTheBuild_kept : ∀ st ∈ [BuildState.held, .empty, .loading, .swapping],
    (scanning st .rescan).inFlight = some ⟨.scan, 17, .A, none, 0, 2000, false⟩ ∧
      ((scanning st .rescan).build .A).scanInFlight = some ⟨.rescan, false, false⟩ ∧
      ((scanning st .rescan).build .A).state = st ∧ (scanning st .rescan).robotReady = false ∧
      (scanning st .rescan).fault.valid = false := by decide

/-- R143: a build in HELD whose rescan expires stays in HELD, with no report. -/
theorem test_scanTimeout_held :
    (after .scanTimeout (scanning .held .rescan)).buildA = { openA with state := .held } ∧
      (after .scanTimeout (scanning .held .rescan)).txQueue = [] ∧
      (after .scanTimeout (scanning .held .rescan)).fault.cause = some .scanTimeout := by decide

theorem witness_PauseEndsAtItsTimer :
    State.station { ready with station := .paused, pauseTimer := some 5 } = .paused ∧
      State.pauseTimer { ready with station := .paused, pauseTimer := some 5 } = some 5 ∧ PortHeld ready ∧
      ready.own2.pauseLength ≤ 255 := by decide

/-- A free port and a ready robot, with a PLACE to grant. -/
def grantable : State := { arrived true with robotReady := true }

/-- The arbiter's clauses: a scan due, a swap due, a PLACE to grant, nothing to grant. -/
theorem witness_ArbiterGrantsInOrder :
    grantable.inFlight = none ∧ grantable.robotReady = true ∧ grantable.station = .run ∧
      grantable.buildA.scanDue = none ∧ grantable.buildB.scanDue = none ∧ grantable.buildA.swapDue = false ∧
      grantable.buildB.swapDue = false ∧
      grantable.pick = [] ++ { pickEntry with phase := .arrived ⟨790, 890, 1090, true⟩ } :: [] ∧
      MayBePlaced grantable { pickEntry with phase := .arrived ⟨790, 890, 1090, true⟩ } ⟨790, 890, 1090, true⟩
        { entry with state := .won } ∧
      State.buildA { grantable with buildA := { openA with scanDue := some .step } } =
        { openA with scanDue := some .step } ∧
      State.buildB { grantable with buildB := { openA with swapDue := true } } = { openA with swapDue := true } := by
  decide

/-- An entry that waits for the eye may not be placed. -/
theorem witness_ArbiterGrantsInOrder_none :
    won.pick = [pickEntry] ∧ ∀ m e, ¬ MayBePlaced { won with robotReady := true } pickEntry m e :=
  ⟨rfl, fun _ _ h => nomatch h.1⟩

theorem witness_SearchFindsTheFirstBest :
    search line order true grid ⟨30, 180, false⟩ 2 1 = some ⟨false, ⟨3, 1, 2, 1⟩, 0, 6016⟩ ∧
      order.heightLimit ≤ 400 ∧ order.priority ≤ 7 ∧ line.supportTol ≤ 4 ∧ 10 ≤ 30 ∧
      search line order true grid ⟨361, 180, false⟩ 2 1 = none := by decide

/-- The candidate of the worked placement: base 0, no void, share 90; and an anchor whose tiles stand at 48, 46 and 0,
with base 48. -/
theorem witness_SearchFindsTheFirstBest_checks :
    (∀ i : Fin 24, InFootprint ⟨3, 1, 2, 1⟩ i → grid.height[i] ≤ 0) ∧
      (∃ i : Fin 24, InFootprint ⟨3, 1, 2, 1⟩ i ∧ grid.height[i] = 0) ∧
      feasible line order true grid ⟨30, 180, false⟩ ⟨3, 1, 2, 1⟩ = true ∧
      scoreOf order grid 30 ⟨3, 1, 2, 1⟩ = 6016 ∧
      (∀ i : Fin 24, InFootprint ⟨1, 1, 3, 1⟩ i → grid.height[i] ≤ 48) ∧
      (∃ i : Fin 24, InFootprint ⟨1, 1, 3, 1⟩ i ∧ grid.height[i] = 48) ∧
      feasible line order true grid ⟨30, 180, false⟩ ⟨1, 1, 3, 1⟩ = false := by decide

/-- Each of the seven checks refuses where its quantity first passes its limit: support, BASE, reserve, height, load,
weight, centre of gravity (R69 to R75). -/
theorem test_checks_at_their_limits :
    supported grid.height ⟨1, 1, 2, 1⟩ 48 2 = true ∧ supported grid.height ⟨1, 1, 2, 1⟩ 48 1 = false ∧
      baseCheck ⟨30, 180, true⟩ 0 = true ∧ baseCheck ⟨30, 180, true⟩ 1 = false ∧
      reserveCheck true order ⟨30, 180, false⟩ 0 ⟨2, 3, 1, 1⟩ = true ∧
      reserveCheck true order ⟨30, 180, false⟩ 0 ⟨1, 3, 1, 1⟩ = false ∧
      heightCheck 360 330 30 = true ∧ heightCheck 360 331 30 = false ∧
      loadCheck grid 1500 ⟨0, 0, 2, 1⟩ = true ∧ loadCheck grid 1501 ⟨0, 0, 2, 1⟩ = false ∧
      weightCheck line grid 7600 = true ∧ weightCheck line grid 7601 = false ∧
      cogCheck { line with limX := 200 } { grid with weight := 2399 } 1 ⟨3, 3, 2, 1⟩ = true ∧
      cogCheck { line with limX := 199 } { grid with weight := 2399 } 1 ⟨3, 3, 2, 1⟩ = false := by decide

theorem witness_RecomputationRebuildsThePlan : ((contested.build .A).plan.map PlanEntry.tag).Nodup := by decide

/-- Case 0B11H on top of case 0B10H, with the weight of 04 section 4.7, WON. -/
def onTop : PlanEntry := ⟨0x0B11, 0, ⟨3, 1, 2, 1⟩, false, 30, 24, 499, 10, false, .won, none⟩

/-- Case 0B12H, CONTESTED, with a base that its tiles no longer have. -/
def shifted : PlanEntry := { entry with tag := 0x0B12, foot := ⟨0, 2, 2, 1⟩, base := 30 }

/-- A plan whose first two entries stand and whose third does not; the second passes its load check at equality. -/
def planning : State :=
  { contested with
    pick := [{ pickEntry with tag := 0x0B11 }]
    buildA := { contested.buildA with
      plan := [entry, onTop, shifted], lines := [⟨412, false, 5, 3, 0⟩, ⟨77, true, 2, 0, 0⟩] } }

/-- R90: the walk's test passes for the entries at their turn, and fails for one whose base has moved, and for one
that is one unit of weight heavier than the margin beneath it bears. -/
theorem witness_RecomputationRebuildsThePlan_stands :
    ((planning.build .A).plan.map PlanEntry.tag).Nodup ∧ planning.buildA.order = some order ∧
      StandsOn line 360 (stacked grid []) entry ∧ StandsOn line 360 (stacked grid [entry]) onTop ∧
      ¬ StandsOn line 360 (stacked grid [entry, onTop]) shifted ∧
      ¬ StandsOn line 360 (stacked grid [entry]) { onTop with weight := 501 } := by
  refine ⟨?_, ?_, ?_, ?_, ?_, ?_⟩ <;> decide

/-- R90 to R92: the walk keeps the first two entries and withdraws the third, whose line then counts two planned. -/
theorem test_recompute_walk :
    (recompute .A planning).buildA.plan = [entry, onTop] ∧
      (recompute .A planning).buildA.planned = stacked grid [entry, onTop] ∧
      (recompute .A planning).buildA.lines = [⟨412, false, 5, 2, 0⟩, ⟨77, true, 2, 0, 0⟩] := by decide

/-- The commands that take one entry out and recompute its build. -/
theorem witness_RecomputationRebuildsThePlan_exec :
    EventRaised won .eyeWindowEnd 0x0B10 ∧ findPick 0x0B10 won = some pickEntry ∧
      EventRaised (arrived true) .pickClose 0x0B10 ∧
      findPick 0x0B10 (arrived true) = some { pickEntry with phase := .arrived ⟨790, 890, 1090, true⟩ } ∧
      findEntry .A 0x0B10 won = some { entry with state := .won } ∧
      findEntry .A 0x0B10 (arrived true) = some { entry with state := .won } ∧
      EventRaised (atDeadline contested) .sendDeadline 0x0B10 ∧
      claimInTransmission 0x0B10 (atDeadline contested) = false ∧ findEntry .A 0x0B10 contested = some entry ∧
      (∀ s ∈ [atDeadline contested, holding claim5000 contested],
        findRecord 0x0B10 s = some record ∧ findEntry .A 0x0B10 s = some entry) ∧
      BetterClaim ⟨(wordAt claim5000.payload 2).toNat, claim5000.ident.toNat % 16⟩ 6016 contested.number ∧
      record.state = .queued ∧ record.best = none ∧ record.bid = some ⟨.A, 6016, true⟩ := by decide

end Sys2Proof.Tests
end

section
/-!
The CASE NOTICE (chapter 1, R6 to R11): what the checks refuse and in which order, what appending a record writes, and
what becomes of the appended record when it is evaluated. O24 is assembled from these.
-/
namespace Sys2Proof.Machine

variable {s : State} {f : Frame} {rest : List Frame}

/-! ### The checks (R7 to R10) -/

/-- The half-range test of R2. -/
theorem reached_iff (c p : Count) : reached c p = true ↔ (c - p).toNat < 32768 := by
  simp [reached]

/-- The field checks of R7. -/
theorem noticeFieldsOk_iff (d : CaseDesc) :
    noticeFieldsOk d = true ↔ 1 ≤ d.article ∧ d.article ≤ 4095 ∧ 1 ≤ d.w ∧ d.w ≤ 3 ∧ 1 ≤ d.d ∧ d.d ≤ 3 ∧ d.h ≤ 120 ∧
      d.weight ≤ 1023 := by
  simp [noticeFieldsOk, and_assoc]

/-- A record is found under a tag when some record of the track list holds it (R8). -/
theorem findRecord_isSome_iff (tag : Tag) : (findRecord tag s).isSome = true ↔ ∃ r ∈ s.track, r.tag = tag := by
  simp [findRecord]

/-- The checks in their order, in the terms of R7 to R10. -/
theorem noticeRefusal_eq (p : List Byte) (s : State) :
    noticeRefusal p s =
      if ¬ (1 ≤ (noticeDesc p).article ∧ (noticeDesc p).article ≤ 4095 ∧ 1 ≤ (noticeDesc p).w ∧
          (noticeDesc p).w ≤ 3 ∧ 1 ≤ (noticeDesc p).d ∧ (noticeDesc p).d ≤ 3 ∧ (noticeDesc p).h ≤ 120 ∧
          (noticeDesc p).weight ≤ 1023) then some .badNotice
      else if ∃ r ∈ s.track, r.tag = wordAt p 0 then some .dupNotice
      else if (s.belt - ((noticeDesc p).stamp + s.line.closeDist)).toNat < 32768 then some .lateNotice
      else if 24 ≤ s.track.length then some .trackFull
      else none := by
  simp only [noticeRefusal, Bool.not_eq_true', ← Bool.not_eq_true, noticeFieldsOk_iff, findRecord_isSome_iff,
    reached_iff]
  rfl

/-- A notice that fails a check is counted, and nothing else (R7 to R10). -/
theorem takeNotice_refused {p : List Byte} {c : CounterName} (h : noticeRefusal p s = some c) :
    takeNotice p s = count c s := by
  simp [takeNotice, h]

/-- A notice that passes the checks is appended and its record evaluated (R11). -/
theorem takeNotice_accepted {p : List Byte} (h : noticeRefusal p s = none) :
    takeNotice p s = evaluate (noticeRecord p s) (appendRecord (noticeRecord p s) s) := by
  simp [takeNotice, h]

/-! ### Handing the notice on (R6) -/

/-- What the command runs, and the beacons at its end. -/
theorem exec_caseNotice (s : State) : exec .caseNotice s = done (caseNotice s) := rfl

/-- In RUN and PAUSED the notice is taken (R6). -/
theorem exec_caseNotice_taken (hrx : s.rxBuffer = f :: rest) (hk : kindOf f = 0)
    (hs : s.station = .run ∨ s.station = .paused) :
    exec .caseNotice s = .next (showBeacons (takeNotice f.payload { s with rxBuffer := rest })) := by
  rw [exec_caseNotice, caseNotice, handOn_takes _ _ hrx (by simp [hk]), if_pos hs]
  rfl

/-- In the other states the notice leaves the buffer and has no effect (R6). -/
theorem exec_caseNotice_ignored (hrx : s.rxBuffer = f :: rest) (hk : kindOf f = 0)
    (hs : ¬ (s.station = .run ∨ s.station = .paused)) :
    exec .caseNotice s = .next (showBeacons { s with rxBuffer := rest }) := by
  rw [exec_caseNotice, caseNotice, handOn_takes _ _ hrx (by simp [hk]), if_neg hs]
  rfl

/-- The states in which a notice is ignored are those other than RUN and PAUSED (R6). -/
theorem StationState.ignoresNotice_iff (st : StationState) :
    (st = .awaitConfig ∨ st = .stalled ∨ st = .silent) ↔ ¬ (st = .run ∨ st = .paused) := by
  cases st <;> decide

/-! ### Appending and evaluating the record (R4, R11, R19 to R23) -/

/-- Appending writes the tail of the track list and registers the positions that are still ahead of the belt; a send
deadline already reached is not registered (R3, R11; log entry 3). -/
theorem appendRecord_ahead (r : TrackRecord) (s : State) (hclose : reached s.belt r.closeAt = false)
    (hdeadline : r.deadlinePassed = reached s.belt r.deadlineAt) :
    appendRecord r s = { s with
      track := s.track ++ [r]
      positions := s.positions ++ (⟨.closePoint, r.tag, r.closeAt, false⟩ ::
        (if r.deadlinePassed then [] else [⟨.sendDeadline, r.tag, r.deadlineAt, false⟩])) } := by
  unfold appendRecord
  split <;> simp_all [register]

/-- A bid writes the track list, the transmit queue and the builds, and nothing else (R23). -/
theorem bid_eq (r : TrackRecord) (c : Candidate) (s : State) :
    bid r c s = { s with
      track := (bid r c s).track, txQueue := (bid r c s).txQueue, buildA := (bid r c s).buildA,
      buildB := (bid r c s).buildB } := by
  obtain ⟨b, _, _, _⟩ := c
  cases b <;> rfl

/-- A bid changes the one record that holds its tag: it is QUEUED with its own bid (R23). -/
theorem bid_track_tail (r : TrackRecord) (c : Candidate) {l : List TrackRecord} (hl : s.track = l ++ [r])
    (hn : ∀ x ∈ l, x.tag ≠ r.tag) :
    (bid r c s).track = l ++ [{ r with state := .queued, bid := some ⟨c.build, c.found.score, true⟩ }] := by
  have hkeep (g : TrackRecord → TrackRecord) : l.map (fun x => if x.tag = r.tag then g x else x) = l :=
    (List.map_congr_left fun x hx => if_neg (hn x hx)).trans l.map_id'
  have htrack : (addEntry c.build (entryFor r.tag r.desc c .contested) s).track = l ++ [r] := by
    rw [← hl]; cases c.build <;> rfl
  simp [bid, updateRecord, htrack, hkeep]

/-- An evaluation changes nothing, or it is a bid for a record whose send deadline has not passed (R19, R22). -/
theorem evaluate_cases (r : TrackRecord) (s : State) :
    evaluate r s = s ∨ r.deadlinePassed = false ∧ ∃ c, evaluate r s = bid r c s := by
  unfold evaluate
  split
  next he =>
    split
    · exact .inl rfl
    · split
      · simp only [evaluable, Bool.and_eq_true, Bool.not_eq_true'] at he
        obtain ⟨⟨_, hahead⟩, _⟩ := he
        exact .inr ⟨hahead, _, rfl⟩
      · exact .inl rfl
  · exact .inl rfl

/-- A record just appended is left as it is by its evaluation, or bid (R11, R19 to R23). -/
theorem evaluate_appended (r : TrackRecord) {l : List TrackRecord} (hl : s.track = l ++ [r])
    (hn : ∀ x ∈ l, x.tag ≠ r.tag) :
    ∃ r', evaluate r s = { s with
        track := l ++ [r'], txQueue := (evaluate r s).txQueue, buildA := (evaluate r s).buildA,
        buildB := (evaluate r s).buildB } ∧
      (r' = r ∧ evaluate r s = s ∨
        r.deadlinePassed = false ∧ ∃ o, r' = { r with state := .queued, bid := some o }) := by
  rcases evaluate_cases r s with hkept | ⟨hahead, c, hbid⟩
  · exact ⟨r, by rw [hkept, ← hl], .inl ⟨rfl, hkept⟩⟩
  · refine ⟨{ r with state := .queued, bid := some ⟨c.build, c.found.score, true⟩ }, ?_, .inr ⟨hahead, _, rfl⟩⟩
    rw [hbid, ← bid_track_tail r c hl hn]
    exact bid_eq r c s

/-- A notice that passes the checks has a tag of its own and its close point ahead (R8, R9). -/
theorem noticeRefusal_none {p : List Byte} (h : noticeRefusal p s = none) :
    (∀ r ∈ s.track, r.tag ≠ (noticeRecord p s).tag) ∧ reached s.belt (noticeRecord p s).closeAt = false := by
  rw [noticeRefusal_eq] at h
  split_ifs at h with _ hdup hlate
  exact ⟨fun r hr ht => hdup ⟨r, hr, ht⟩, by rw [← Bool.not_eq_true, reached_iff]; exact hlate⟩

/-- What a notice that passes the checks writes: its record at the tail, as `noticeRecord` has it or bid, and the
positions still ahead (R11). -/
theorem takeNotice_appends {p : List Byte} (h : noticeRefusal p s = none) :
    ∃ r, takeNotice p s = { s with
        track := s.track ++ [r]
        positions := s.positions ++ (⟨.closePoint, r.tag, r.closeAt, false⟩ ::
          (if r.deadlinePassed then [] else [⟨.sendDeadline, r.tag, r.deadlineAt, false⟩]))
        txQueue := (takeNotice p s).txQueue, buildA := (takeNotice p s).buildA
        buildB := (takeNotice p s).buildB } ∧
      (r = noticeRecord p s ∧ (takeNotice p s).txQueue = s.txQueue ∧ (takeNotice p s).buildA = s.buildA ∧
          (takeNotice p s).buildB = s.buildB ∨
        (noticeRecord p s).deadlinePassed = false ∧
          ∃ o, r = { noticeRecord p s with state := .queued, bid := some o }) := by
  obtain ⟨hnew, hclose⟩ := noticeRefusal_none h
  have happ := appendRecord_ahead (noticeRecord p s) s hclose rfl
  obtain ⟨r, ht, hr⟩ := evaluate_appended (noticeRecord p s) (congrArg State.track happ) hnew
  rw [← takeNotice_accepted h, happ] at ht hr
  rcases hr with ⟨rfl, hkept⟩ | ⟨hahead, o, rfl⟩
  · exact ⟨_, ht, .inl ⟨rfl, by rw [hkept], by rw [hkept], by rw [hkept]⟩⟩
  · exact ⟨_, ht, .inr ⟨hahead, o, rfl⟩⟩

end Sys2Proof.Machine

open Sys2Proof.Machine

/-- Settles O24: the checks come in the order of `noticeRefusal_eq`, and an appended record is left as it is or bid. -/
theorem noticesAreCheckedInOrder : Obligations.NoticesAreCheckedInOrder := by
  intro s f rest d tag hrx hk hd htag
  obtain rfl : d = noticeDesc f.payload := hd
  subst htag
  by_cases hrun : s.station = .run ∨ s.station = .paused
  case neg =>
    refine ⟨_, exec_caseNotice_ignored hrx hk hrun, ?_⟩
    rw [if_pos ((StationState.ignoresNotice_iff _).mpr hrun)]
    rfl
  refine ⟨_, exec_caseNotice_taken hrx hk hrun, ?_⟩
  rw [if_neg (fun h => (StationState.ignoresNotice_iff _).mp h hrun)]
  have hr : noticeRefusal f.payload { s with rxBuffer := rest } = _ := noticeRefusal_eq f.payload s
  split_ifs at hr ⊢ with hfields hdup hlate hfull
  · -- the tag is held (R8)
    rw [takeNotice_refused hr]; rfl
  · -- the close point is reached (R9)
    rw [takeNotice_refused hr]; rfl
  · -- 24 records are held (R10)
    rw [takeNotice_refused hr]; rfl
  · -- the notice passes (R11)
    obtain ⟨r, ht, hr⟩ := takeNotice_appends hr
    rcases hr with ⟨rfl, hsame⟩ | ⟨hahead, o, rfl⟩
    · exact ⟨_, congrArg State.track ht, rfl, rfl, rfl, rfl, reached_iff _ _, fun _ => ⟨rfl, rfl⟩, rfl,
        congrArg State.positions ht, fun _ => hsame, by rw [ht]; rfl⟩
    · exact ⟨_, congrArg State.track ht, rfl, rfl, rfl, rfl, reached_iff _ _,
        fun h => absurd (hahead.symm.trans h) Bool.false_ne_true, rfl, congrArg State.positions ht,
        fun h => TrackState.noConfusion h, by rw [ht]; rfl⟩
  · -- a field check fails (R7)
    rw [takeNotice_refused hr]; rfl
end

section
/-!
The beacon lines (R172 to R174): the three computed levels are the conditions of the rules, and every step ends by
showing them. O4 is assembled from these.
-/
namespace Sys2Proof.Machine

variable {s t : State}

/-! ### The conditions (R172 to R174) -/

/-- The blink is on in the first half of each second of the time base (R172). -/
theorem blinkOn_iff (m : Millis) : blinkOn m = true ↔ m.toNat % 1000 < 500 := by
  simp [blinkOn]

/-- The RUN beacon is on in RUN, steady with a build in OPEN and blinking without one (R172). -/
theorem runBeacon_iff (s : State) :
    runBeacon s = true ↔
      s.station = .run ∧ (s.buildA.state = .opened ∨ s.buildB.state = .opened ∨ s.timeBase.toNat % 1000 < 500) := by
  simp [runBeacon, anyOpen, blinkOn_iff, or_assoc]

/-- The ATTN beacon is on with a build in HELD, in PAUSED, or with a Valid ATTN record (R173). -/
theorem attnBeacon_iff (s : State) :
    attnBeacon s = true ↔
      s.buildA.state = .held ∨ s.buildB.state = .held ∨ s.station = .paused ∨
        (s.fault.valid = true ∧ s.fault.severity = .attn) := by
  simp [attnBeacon, anyHeld, or_assoc]

/-- The STOP beacon is on in STALLED, in SILENT, or with a Valid STOP record (R174). -/
theorem stopBeacon_iff (s : State) :
    stopBeacon s = true ↔
      s.station = .stalled ∨ s.station = .silent ∨ (s.fault.valid = true ∧ s.fault.severity = .stop) := by
  simp [stopBeacon, or_assoc]

/-- Beacon lines that have just taken their levels show their conditions (R172 to R174). -/
theorem beaconsFollow_showBeacons (s : State) : BeaconsFollow (showBeacons s) :=
  ⟨runBeacon_iff s, attnBeacon_iff s, stopBeacon_iff s⟩

/-! ### Every step shows them (11 section 11.4; log entry 34) -/

/-- Idling ends by showing the beacons, whichever of the three things it does. -/
theorem idle_shows (s : State) : ∃ u, idle s = showBeacons u := by
  unfold idle
  split
  · exact ⟨_, rfl⟩
  · split <;> exact ⟨_, rfl⟩

/-- A step's next state is one whose beacon lines have just taken their levels. -/
theorem step_shows (h : step s = .next t) : ∃ u, t = showBeacons u := by
  rcases step_cases s with ⟨c, rest, -, hc⟩ | ⟨-, hi⟩
  · obtain ⟨u, hu⟩ := exec_next c { s with pending := rest }
    rw [hc, hu] at h
    exact ⟨u, (Host.Outcome.next.inj h).symm⟩
  · obtain ⟨u, hu⟩ := idle_shows s
    rw [hi, hu] at h
    exact ⟨u, (Host.Outcome.next.inj h).symm⟩

end Sys2Proof.Machine

open Sys2Proof.Machine

/-- Settles O4: every step ends by showing the beacons of the state it leaves. -/
theorem beaconsFollowTheirConditions : Obligations.BeaconsFollowTheirConditions := by
  intro s t h
  obtain ⟨u, rfl⟩ := step_shows h
  exact beaconsFollow_showBeacons u
end

section
/-!
STATUS QUERY and FAULT QUERY (R168, R170, R171): what the answer writes when both STATUS frames, one of them or none
find room, and when the FAULT REPORT does or does not. O45 is assembled from these.
-/
namespace Sys2Proof.Machine

variable {s : State} {f : Frame} {rest : List Frame}

/-! ### Handing a query on (R5, R164) -/

/-- A command that the station takes leaves the buffer, ends the live prepare, and is acted on (R5, R164). -/
theorem handOn_onCommand_takes {code : Nat} (h : TakesCommand s code f rest) (act : Frame → State → State) :
    handOn (isCode 3 code) (fun f => onCommand f (act f)) s = act f { s with rxBuffer := rest, pairing := none } := by
  have ⟨hrx, hcode, _, _⟩ := h
  rw [handOn_takes _ _ hrx hcode, onCommand_takes h]

/-- In SILENT a command leaves the buffer and is ignored (R168, R170). -/
theorem handOn_onCommand_silent {code : Nat} (hrx : s.rxBuffer = f :: rest) (hcode : isCode 3 code f = true)
    (hs : s.station = .silent) (act : Frame → State → State) :
    handOn (isCode 3 code) (fun f => onCommand f (act f)) s = { s with rxBuffer := rest } := by
  rw [handOn_takes _ _ hrx hcode, onCommand, if_pos (.inl hs)]

/-- What STATUS_QUERY runs, and the beacons at its end. -/
theorem exec_statusQuery (s : State) : exec .statusQuery s = done (statusQuery s) := rfl

/-- What FAULT_QUERY runs, and the beacons at its end. -/
theorem exec_faultQuery (s : State) : exec .faultQuery s = done (faultQuery s) := rfl

/-- The clear option is a first payload byte other than 0. -/
theorem ite_clearOption {α : Type} (p : List Byte) (x y : α) :
    (if clearOption p then x else y) = if byteAt p 0 = 0 then y else x := by
  by_cases h : byteAt p 0 = 0 <;> simp [clearOption, h]

/-! ### Room for an offered frame (R26) -/

/-- Out of SILENT, a queue with room takes an offered frame (R24). -/
theorem canOffer_room (hs : s.station ≠ .silent) (hl : s.txQueue.length < txCapacity) : canOffer s = true := by
  simp [canOffer, hs, hl]

/-- A full queue takes no frame (R26). -/
theorem canOffer_full (hl : txCapacity ≤ s.txQueue.length) : canOffer s = false := by
  simp [canOffer, Nat.not_lt.mpr hl]

/-! ### The answer to a STATUS QUERY (R170, R171) -/

/-- When both STATUS frames find room, the clear option clears the counters and THROTTLE SEEN (R38, R171). -/
theorem answerStatus_complete (clearing : Bool) (hfirst : canOffer s = true)
    (hsecond : canOffer (offer (.status1 (status1Of s)) s) = true) :
    answerStatus clearing s = { offer (.status2 s.counters) (offer (.status1 (status1Of s)) s) with
      counters :=
        if clearing then Counters.zero else (offer (.status2 s.counters) (offer (.status1 (status1Of s)) s)).counters
      throttleSeen := if clearing then false else s.throttleSeen } := by
  cases clearing
  case false => rfl
  case true => simp [answerStatus, hfirst, hsecond]

/-- When a STATUS frame finds no room, the frames are offered and nothing is cleared (R171). -/
theorem answerStatus_incomplete (clearing : Bool)
    (h : canOffer s = false ∨ canOffer (offer (.status1 (status1Of s)) s) = false) :
    answerStatus clearing s = offer (.status2 s.counters) (offer (.status1 (status1Of s)) s) := by
  rcases h with h | h <;> simp [answerStatus, h]

/-- With room for two, both frames are placed, and the clear option clears what they reported (R171). -/
theorem answerStatus_both (clearing : Bool) (hs : s.station ≠ .silent) (hl : s.txQueue.length + 2 ≤ txCapacity) :
    answerStatus clearing s = { s with
      txQueue := s.txQueue ++ [TxFrame.fresh (.status1 (status1Of s)), TxFrame.fresh (.status2 s.counters)]
      counters := if clearing then Counters.zero else s.counters
      throttleSeen := if clearing then false else s.throttleSeen } := by
  have hplaced := offer_room (.status1 (status1Of s)) hs (by omega)
  have hs1 : (offer (.status1 (status1Of s)) s).station ≠ .silent := hs
  have hl1 : (offer (.status1 (status1Of s)) s).txQueue.length < txCapacity := by simp [hplaced]; omega
  rw [answerStatus_complete clearing (canOffer_room hs (by omega)) (canOffer_room hs1 hl1), offer_room _ hs1 hl1,
    hplaced]
  simp

/-- With room for one, STATUS 1 is placed, STATUS 2 is counted TX DROP, and nothing is cleared (R26, R171). -/
theorem answerStatus_one (clearing : Bool) (hs : s.station ≠ .silent) (hl : s.txQueue.length + 1 = txCapacity) :
    answerStatus clearing s =
      count .txDrop { s with txQueue := s.txQueue ++ [TxFrame.fresh (.status1 (status1Of s))] } := by
  have hplaced := offer_room (.status1 (status1Of s)) hs (by omega)
  have hs1 : (offer (.status1 (status1Of s)) s).station ≠ .silent := hs
  have hl1 : txCapacity ≤ (offer (.status1 (status1Of s)) s).txQueue.length := by simp [hplaced, hl]
  rw [answerStatus_incomplete clearing (.inr (canOffer_full hl1)), offer_full _ hs1 hl1, hplaced]

/-- With no room, each frame is counted TX DROP, and nothing is cleared (R26, R171). -/
theorem answerStatus_none (clearing : Bool) (hs : s.station ≠ .silent) (hl : txCapacity ≤ s.txQueue.length) :
    answerStatus clearing s = count .txDrop (count .txDrop s) := by
  rw [answerStatus_incomplete clearing (.inl (canOffer_full hl)), offer_full _ hs hl,
    offer_full (s := count .txDrop s) _ hs hl]

/-! ### The answer to a FAULT QUERY (R168) -/

/-- With room the report is placed, and the clear option clears the record it reported (R168). -/
theorem answerFault_room (clearing : Bool) (hs : s.station ≠ .silent) (hl : s.txQueue.length < txCapacity) :
    answerFault clearing s = { s with
      txQueue := s.txQueue ++ [TxFrame.fresh (.faultReport s.fault)]
      fault := if clearing then FaultRecord.clear else s.fault } := by
  rw [answerFault, offer_room _ hs hl, canOffer_room hs hl]
  cases clearing <;> rfl

/-- With no room the report is counted TX DROP, and the record stays (R26, R168). -/
theorem answerFault_full (clearing : Bool) (hs : s.station ≠ .silent) (hl : txCapacity ≤ s.txQueue.length) :
    answerFault clearing s = count .txDrop s := by
  rw [answerFault, offer_full _ hs hl, canOffer_full hl]
  simp

/-! ### The two commands (R164, R168, R170) -/

/-- STATUS_QUERY taken: the answer of the state without the frame and the live prepare (R164, R170). -/
theorem exec_statusQuery_taken (h : TakesCommand s 12 f rest) :
    exec .statusQuery s =
      .next (showBeacons (answerStatus (clearOption f.payload) { s with rxBuffer := rest, pairing := none })) := by
  rw [exec_statusQuery, statusQuery, handOn_onCommand_takes h (fun f => answerStatus (clearOption f.payload))]
  rfl

/-- FAULT_QUERY taken: the answer of the state without the frame and the live prepare (R164, R168). -/
theorem exec_faultQuery_taken (h : TakesCommand s 13 f rest) :
    exec .faultQuery s =
      .next (showBeacons (answerFault (clearOption f.payload) { s with rxBuffer := rest, pairing := none })) := by
  rw [exec_faultQuery, faultQuery, handOn_onCommand_takes h (fun f => answerFault (clearOption f.payload))]
  rfl

/-- In SILENT either query leaves the buffer and is ignored (R168, R170). -/
theorem exec_query_silent {cmd : Instr} {code : Nat}
    (hcmd : cmd = .statusQuery ∧ code = 12 ∨ cmd = .faultQuery ∧ code = 13) (hrx : s.rxBuffer = f :: rest)
    (hcode : isCode 3 code f = true) (hs : s.station = .silent) :
    exec cmd s = .next (showBeacons { s with rxBuffer := rest }) := by
  rcases hcmd with ⟨rfl, rfl⟩ | ⟨rfl, rfl⟩
  · rw [exec_statusQuery, statusQuery,
      handOn_onCommand_silent hrx hcode hs (fun f => answerStatus (clearOption f.payload))]
    rfl
  · rw [exec_faultQuery, faultQuery,
      handOn_onCommand_silent hrx hcode hs (fun f => answerFault (clearOption f.payload))]
    rfl

end Sys2Proof.Machine

open Sys2Proof.Machine

/-- Settles O45: the answers by the room in the transmit queue, for the state without the frame and the live prepare. -/
theorem queriesReportAndClear : Obligations.QueriesReportAndClear := by
  refine ⟨fun _ => rfl, fun s f rest => ⟨?both, ?one, ?none, ?silent, ?report, ?dropped⟩⟩
  case both =>
    intro h hl
    refine ⟨_, exec_statusQuery_taken h, ?_⟩
    obtain ⟨-, -, -, hs⟩ := h
    rw [answerStatus_both _ (by exact hs) (by simpa [txCapacity] using hl), ite_clearOption, ite_clearOption]
    exact ⟨rfl, rfl⟩
  case one =>
    intro h hl
    refine ⟨_, exec_statusQuery_taken h, ?_⟩
    obtain ⟨-, -, -, hs⟩ := h
    rw [answerStatus_one _ (by exact hs) (by simpa [txCapacity] using hl)]
    exact ⟨rfl, rfl⟩
  case none =>
    intro h hl
    refine ⟨_, exec_statusQuery_taken h, ?_⟩
    obtain ⟨-, -, -, hs⟩ := h
    rw [answerStatus_none _ (by exact hs) (by exact hl)]
    rfl
  case silent =>
    intro hrx hs cmd code hcmd hcode
    exact ⟨_, exec_query_silent hcmd hrx hcode hs, rfl⟩
  case report =>
    intro h hl
    refine ⟨_, exec_faultQuery_taken h, ?_⟩
    obtain ⟨-, -, -, hs⟩ := h
    rw [answerFault_room _ (by exact hs) (by exact hl), ite_clearOption]
    rfl
  case dropped =>
    intro h hl
    refine ⟨_, exec_faultQuery_taken h, ?_⟩
    obtain ⟨-, -, -, hs⟩ := h
    rw [answerFault_full _ (by exact hs) (by exact hl)]
    rfl
end

section
/-!
What every step keeps, from the moves of Laws/Moves.lean: sizes and ranges, the one frame on the line, the track list,
the configuration, silence and the belt counter. O6 to O11 are assembled from these.
-/
namespace Sys2Proof.Machine

variable {s t : State}

/-! ### From moves to steps -/

/-- What a start answers (R155). -/
theorem exec_restarts {c : Instr} (hr : restarts c = true) (s : State) :
    ∃ straps, exec c s = .next (showBeacons (startUp straps s)) := by
  cases c with
  | powerOn straps => exact ⟨straps, rfl⟩
  | reset straps => exact ⟨straps, rfl⟩
  | _ => exact absurd hr Bool.false_ne_true

/-- What ENCODER_PULSE answers. -/
theorem exec_encoderPulse (s : State) : exec .encoderPulse s = .next (showBeacons (encoderPulse s)) := rfl

/-- A property that moves, a start, a pulse and the fields of an idle step keep is kept by every step. -/
theorem step_keeps {P : State → Prop} (hmove : ∀ s t, Move s t → P s → P t)
    (hstart : ∀ straps s, P (showBeacons (startUp straps s)))
    (hpulse : ∀ s, P s → P (showBeacons (encoderPulse s)))
    (hidle : ∀ s r u p m b, P s →
      P { s with receiver := r, urx := u, pending := p, timeBase := m, beacons := b })
    (hs : P s) (h : step s = .next t) : P t := by
  rcases step_cases s with ⟨c, rest, -, hc⟩ | ⟨-, hi⟩
  · rw [hc] at h
    have hs' : P { s with pending := rest } := hidle s s.receiver s.urx rest s.timeBase s.beacons hs
    by_cases hr : restarts c = true
    · obtain ⟨straps, he⟩ := exec_restarts hr { s with pending := rest }
      rw [he] at h
      cases h
      exact hstart straps _
    · by_cases hp : c = .encoderPulse
      · subst hp
        rw [exec_encoderPulse] at h
        cases h
        exact hpulse _ hs'
      · exact (exec_moves c (by simpa using hr) hp h).keeps hmove hs'
  · rw [hi] at h
    cases h
    rw [idle_frame]
    exact hidle _ _ _ _ _ _ hs

/-! ### Sizes and ranges (R5, R10, R24, R123, R169) -/

/-- The queues within their sizes and the counters within their ranges. -/
abbrev WithinBounds (s : State) : Prop := QueueBounds s ∧ CountsBounded s

/-- Advancing a counter keeps all thirteen within 255 (R169). -/
theorem Counters.bump_le (name : CounterName) {c : Counters} (h : ∀ n ∈ c.toList, n ≤ 255) :
    ∀ n ∈ (c.bump name).toList, n ≤ 255 := by
  simp only [Counters.toList, List.forall_mem_cons] at h ⊢
  cases name <;> simp only [Counters.bump, saturate255] <;> simp [h]

/-- Cleared counters are within 255 (R169). -/
theorem Counters.zero_toList : ∀ n ∈ Counters.zero.toList, n = 0 := by decide

/-- Every move keeps the sizes and the ranges. -/
theorem Move.withinBounds (m : Move s t) (h : WithinBounds s) : WithinBounds t := by
  obtain ⟨⟨htx, hrx, htrack⟩, hcount, hstreak, hcycles⟩ := h
  cases m with
  | other h => rw [h]; exact ⟨⟨htx, hrx, htrack⟩, hcount, hstreak, hcycles⟩
  | place b hs hl => exact ⟨⟨by simpa [txCapacity] using hl, hrx, htrack⟩, hcount, hstreak, hcycles⟩
  | queue tag n b hs hl => exact ⟨⟨by simpa [txCapacity] using hl, hrx, htrack⟩, hcount, hstreak, hcycles⟩
  | trim p g hp hg =>
    exact ⟨⟨by simpa using (List.length_filter_le p _).trans htx, hrx, htrack⟩, hcount, hstreak, hcycles⟩
  | start i f ho hs hf => exact ⟨⟨by simpa [startTransmission] using htx, hrx, htrack⟩, hcount, hstreak, hcycles⟩
  | drop => exact ⟨⟨(List.length_filter_le _ _).trans htx, hrx, htrack⟩, hcount, hstreak, hcycles⟩
  | back => exact ⟨⟨by simpa [returnToQueue] using htx, hrx, htrack⟩, hcount, hstreak, hcycles⟩
  | advance c => exact ⟨⟨htx, hrx, htrack⟩, Counters.bump_le c hcount, hstreak, hcycles⟩
  | zero =>
    exact ⟨⟨htx, hrx, htrack⟩, fun n hn => (Counters.zero_toList n hn).le.trans (Nat.zero_le _), hstreak, hcycles⟩
  | streak n hn => exact ⟨⟨htx, hrx, htrack⟩, hcount, hn, hcycles⟩
  | cycles n hn => exact ⟨⟨htx, hrx, htrack⟩, hcount, hstreak, hn⟩
  | push f hl => exact ⟨⟨htx, by simpa [rxCapacity] using hl, htrack⟩, hcount, hstreak, hcycles⟩
  | pop f rest h =>
    have hlen : rest.length + 1 ≤ 16 := by simpa [h] using hrx
    exact ⟨⟨htx, Nat.le_of_succ_le hlen, htrack⟩, hcount, hstreak, hcycles⟩
  | record g hg => exact ⟨⟨htx, hrx, by simpa using htrack⟩, hcount, hstreak, hcycles⟩
  | remove tag => exact ⟨⟨htx, hrx, (List.length_filter_le _ _).trans htrack⟩, hcount, hstreak, hcycles⟩
  | add r p hf hl hp => exact ⟨⟨htx, hrx, by simpa [trackCapacity] using hl⟩, hcount, hstreak, hcycles⟩
  | clearLists => exact ⟨⟨htx, hrx, Nat.zero_le _⟩, hcount, hstreak, hcycles⟩
  | _ => exact ⟨⟨htx, hrx, htrack⟩, hcount, hstreak, hcycles⟩

/-- What a start leaves: everything at its power-on value but the straps' number and a HELLO (R155). -/
theorem startUp_cases (straps : BitVec 4) (s : State) :
    startUp straps s = { State.blank with pending := s.pending, urx := s.urx } ∨
      startUp straps s = { State.blank with
        pending := s.pending, urx := s.urx, station := .awaitConfig, stationNumber := some straps.toNat
        txQueue := [TxFrame.fresh (.hello false false false)] } := by
  unfold startUp
  split
  · exact .inr rfl
  · exact .inl rfl

theorem startUp_withinBounds (straps : BitVec 4) (s : State) : WithinBounds (startUp straps s) := by
  have hc : ∀ n ∈ Counters.zero.toList, n ≤ 255 := fun n hn => (Counters.zero_toList n hn).le.trans (Nat.zero_le _)
  rcases startUp_cases straps s with h | h <;> rw [h]
  · exact ⟨⟨Nat.zero_le _, Nat.zero_le _, Nat.zero_le _⟩, hc, Nat.zero_le _, Nat.zero_le _⟩
  · exact ⟨⟨by simp, Nat.zero_le _, Nat.zero_le _⟩, hc, Nat.zero_le _, Nat.zero_le _⟩

/-! ### The one frame on the line (R24, R176) -/

/-- A trimmed queue holds the same frame in transmission. -/
theorem filter_inTransmission_trim (q : List TxFrame) (p : TxFrame → Bool) (g : TxFrame → TxFrame) (n : Nat)
    (hp : ∀ f, f.inTransmission = true → p f = true)
    (hg : ∀ f, (g f).body = f.body ∧ (g f).inTransmission = f.inTransmission) :
    (((q.filter p).map g).filter (fun f => f.inTransmission)).map (fun f => f.body.frame n) =
      (q.filter (fun f => f.inTransmission)).map (fun f => f.body.frame n) := by
  induction q with
  | nil => rfl
  | cons f q ih =>
    by_cases ht : f.inTransmission = true
    · simp [hp f ht, (hg f).1, (hg f).2, ht, ih]
    · by_cases hpf : p f = true <;> simp [hpf, (hg f).2, ht, ih]

/-- Starting a transmission in a queue with none makes the started frame the one in transmission (R24). -/
theorem filter_inTransmission_start (q : List TxFrame) (i : Nat) (f : TxFrame) (hi : q[i]? = some f)
    (hn : ∀ g ∈ q, g.inTransmission = false) :
    (q.modify i (fun f => { f with inTransmission := true })).filter (fun f => f.inTransmission) =
      [{ f with inTransmission := true }] := by
  induction q generalizing i with
  | nil => simp at hi
  | cons g q ih =>
    have hg : g.inTransmission = false := hn g (by simp)
    have hq : ∀ x ∈ q, x.inTransmission = false := fun x hx => hn x (by simp [hx])
    cases i with
    | zero =>
      obtain rfl : g = f := by simpa using hi
      have : q.filter (fun f => f.inTransmission) = [] := by simpa using hq
      simp [this]
    | succ i => simp [List.modify_succ_cons, hg, ih i (by simpa using hi) hq]

/-- No frame is in transmission when none is found (R24). -/
theorem onLine_none : onLine s = none ↔ ∀ f ∈ s.txQueue, f.inTransmission = false := by
  simp [onLine, List.find?_eq_none]

/-- Every move keeps the line and the queue in agreement. -/
theorem Move.lineCarriesOne (m : Move s t) (h : LineCarriesOne s) : LineCarriesOne t := by
  cases m with
  | other e => rw [e]; exact h
  | place b hs hl => simpa [LineCarriesOne, TxFrame.fresh, State.number] using h
  | queue tag n b hs hl => simpa [LineCarriesOne, queueClaim, State.number] using h
  | trim p g hp hg =>
    have := filter_inTransmission_trim s.txQueue p g s.number hp hg
    exact h.trans this.symm
  | start i f ho hs hf =>
    have := filter_inTransmission_start s.txQueue i f hf (onLine_none.mp ho)
    simp only [LineCarriesOne, startTransmission, this, hf]
    rfl
  | drop =>
    have : (dropOnLine s).txQueue.filter (fun f => f.inTransmission) = [] := by simp [dropOnLine]
    rw [LineCarriesOne, this]; rfl
  | back =>
    have : (returnToQueue s).txQueue.filter (fun f => f.inTransmission) = [] := by simp [returnToQueue]
    rw [LineCarriesOne, this]; rfl
  | _ => exact h

theorem startUp_lineCarriesOne (straps : BitVec 4) (s : State) : LineCarriesOne (startUp straps s) := by
  rcases startUp_cases straps s with h | h <;> rw [h] <;> rfl

/-! ### The track list and its close points (R3, R8, R11, R14) -/

/-- Distinct tags, and a registered close point for each record. -/
abbrev TrackListSound (s : State) : Prop := TrackTagsDistinct s ∧ CloseRegistered s

/-- Every move keeps the track list sound. -/
theorem Move.trackListSound (m : Move s t) (h : TrackListSound s) : TrackListSound t := by
  obtain ⟨hd, hc⟩ := h
  cases m with
  | other e => rw [e]; exact ⟨hd, hc⟩
  | record g hg =>
    refine ⟨by simpa [TrackTagsDistinct, Function.comp_def, hg] using hd, fun r hr => ?_⟩
    obtain ⟨x, hx, rfl⟩ := List.mem_map.mp hr
    rw [(hg x).1, (hg x).2]
    exact hc x hx
  | remove tag =>
    refine ⟨hd.sublist (List.filter_sublist.map _), fun r hr => ?_⟩
    obtain ⟨hr, hn⟩ := List.mem_filter.mp hr
    obtain ⟨p, hp, hk, ht, hv⟩ := hc r hr
    exact ⟨p, List.mem_filter.mpr ⟨hp, by simpa [Position.is, hk, ht] using hn⟩, hk, ht, hv⟩
  | add r p hf hl hp =>
    have hnew := (findRecord_none r.tag).mp hf
    refine ⟨?_, fun x hx => ?_⟩
    · rw [TrackTagsDistinct, List.map_append, List.nodup_append]
      refine ⟨hd, by simp, fun a ha b hb => ?_⟩
      obtain ⟨x, hx, rfl⟩ := List.mem_map.mp ha
      obtain rfl : b = r.tag := by simpa using hb
      exact hnew x hx
    · rcases List.mem_append.mp hx with hx | hx
      · obtain ⟨q, hq, hk⟩ := hc x hx
        exact ⟨q, List.mem_append_left _ hq, hk⟩
      · obtain rfl : x = r := by simpa using hx
        exact ⟨p, by simp, hp⟩
  | register p =>
    exact ⟨hd, fun r hr => (hc r hr).imp fun q ⟨hq, hk⟩ => ⟨List.mem_append_left _ hq, hk⟩⟩
  | unregister keep hk =>
    refine ⟨hd, fun r hr => ?_⟩
    obtain ⟨q, hq, hqk, hqt, hqv⟩ := hc r hr
    exact ⟨q, List.mem_filter.mpr ⟨hq, hk q hqk ⟨r, hr, hqt.symm⟩⟩, hqk, hqt, hqv⟩
  | clearLists => exact ⟨List.nodup_nil, fun r hr => absurd hr List.not_mem_nil⟩
  | _ => exact ⟨hd, hc⟩

theorem startUp_trackListSound (straps : BitVec 4) (s : State) : TrackListSound (startUp straps s) := by
  rcases startUp_cases straps s with h | h <;> rw [h] <;>
    exact ⟨List.nodup_nil, fun r hr => absurd hr List.not_mem_nil⟩

/-- A pulse raises events and withdraws no position (R3). -/
theorem encoderPulse_trackListSound (h : TrackListSound s) : TrackListSound (encoderPulse s) := by
  refine ⟨h.1, fun r hr => ?_⟩
  obtain ⟨p, hp, hk, ht, hv⟩ := h.2 r hr
  refine ⟨_, List.mem_map.mpr ⟨p, hp, rfl⟩, ?_⟩
  split <;> exact ⟨hk, ht, hv⟩

/-! ### Configuration, silence and the belt (R1, R161, R163) -/

/-- No move out of AWAIT CONFIG changes the configuration or leads back (R161). -/
theorem Move.keepsConfig {s₀ : State} (m : Move s t) (h : SameConfig s₀ s ∧ s.station ≠ .awaitConfig) :
    SameConfig s₀ t ∧ t.station ≠ .awaitConfig := by
  obtain ⟨hc, hs⟩ := h
  cases m with
  | other e => rw [e]; exact ⟨hc, hs⟩
  | start i f ho h hf => exact ⟨hc, hs⟩
  | drop => exact ⟨hc, hs⟩
  | back => exact ⟨hc, hs⟩
  | leave st h ht => exact ⟨hc, by rcases ht with rfl | rfl <;> simp⟩
  | silence h => exact ⟨hc, by simp⟩
  | ready h => exact absurd h hs
  | setup l a b h => exact absurd h hs
  | _ => exact ⟨hc, by simp [hs]⟩

/-- The station is SILENT, holds no frame that s₀ did not hold, and its line carries what it carried or nothing. -/
abbrev SilentSince (s₀ t : State) : Prop :=
  t.station = .silent ∧ (∀ f ∈ t.txQueue, ∃ g ∈ s₀.txQueue, f.body = g.body) ∧ (t.ctx = s₀.ctx ∨ t.ctx = none)

/-- No move of a SILENT station queues a frame or starts a transmission (R163). -/
theorem Move.silentSince {s₀ : State} (m : Move s t) (h : SilentSince s₀ s) : SilentSince s₀ t := by
  obtain ⟨hs, hq, hx⟩ := h
  cases m with
  | other e => rw [e]; exact ⟨hs, hq, hx⟩
  | place b h hl => exact absurd hs h
  | queue tag n b h hl => rw [hs] at h; simp at h
  | trim p g hp hg =>
    refine ⟨hs, fun f hf => ?_, hx⟩
    obtain ⟨x, hx, rfl⟩ := List.mem_map.mp hf
    rw [(hg x).1]
    exact hq x (List.mem_filter.mp hx).1
  | start i f ho h hf => exact absurd hs h
  | drop => exact ⟨hs, fun f hf => hq f (List.mem_filter.mp hf).1, .inr rfl⟩
  | back =>
    refine ⟨hs, fun f hf => ?_, .inr rfl⟩
    obtain ⟨x, hx, rfl⟩ := List.mem_map.mp hf
    exact hq x hx
  | leave st h ht => rw [hs] at h; simp at h
  | silence h => exact absurd hs h
  | ready h => rw [hs] at h; simp at h
  | setup l a b h => rw [hs] at h; simp at h
  | _ => exact ⟨by simp_all, hq, hx⟩

/-- No move changes the belt counter or the queue of waiting commands (R1). -/
theorem Move.belt_pending (m : Move s t) : t.belt = s.belt ∧ t.pending = s.pending := by
  cases m with
  | other e => rw [e]; exact ⟨rfl, rfl⟩
  | _ => exact ⟨rfl, rfl⟩

theorem Moves.belt_pending (m : Moves s t) : t.belt = s.belt ∧ t.pending = s.pending :=
  m.keeps (P := fun t => t.belt = s.belt ∧ t.pending = s.pending)
    (fun _ _ m h => ⟨m.belt_pending.1.trans h.1, m.belt_pending.2.trans h.2⟩) ⟨rfl, rfl⟩

end Sys2Proof.Machine

open Sys2Proof Sys2Proof.Machine

/-- Settles O6: each move keeps the sizes and ranges. -/
theorem stepKeepsBounds : Obligations.StepKeepsBounds := fun _ _ hq hc h =>
  step_keeps (P := WithinBounds) (fun _ _ m => m.withinBounds) startUp_withinBounds (fun _ h => h)
    (fun _ _ _ _ _ _ h => h) ⟨hq, hc⟩ h

/-- Settles O7: each move keeps the line and the queue in agreement. -/
theorem stepKeepsTheLine : Obligations.StepKeepsTheLine := fun _ _ hs h =>
  step_keeps (P := LineCarriesOne) (fun _ _ m => m.lineCarriesOne) startUp_lineCarriesOne (fun _ h => h)
    (fun _ _ _ _ _ _ h => h) hs h

/-- Settles O8: each move keeps the track list sound. -/
theorem stepKeepsTheTrackList : Obligations.StepKeepsTheTrackList := fun _ _ hd hc h =>
  step_keeps (P := TrackListSound) (fun _ _ m => m.trackListSound) startUp_trackListSound
    (fun _ => encoderPulse_trackListSound) (fun _ _ _ _ _ _ h => h) ⟨hd, hc⟩ h

/-- Settles O9: no move out of AWAIT CONFIG writes the configuration. -/
theorem configurationIsFixedAfterReady : Obligations.ConfigurationIsFixedAfterReady := by
  intro c s t hs hr h
  by_cases hp : c = .encoderPulse
  · subst hp
    cases h
    exact ⟨⟨rfl, rfl, rfl, rfl⟩, hs⟩
  · exact (exec_moves c hr hp h).keeps (P := fun t => SameConfig s t ∧ t.station ≠ .awaitConfig)
      (fun _ _ m => m.keepsConfig) ⟨⟨rfl, rfl, rfl, rfl⟩, hs⟩

/-- Settles O10: no move of a SILENT station queues a frame, starts a transmission or leaves SILENT. -/
theorem silenceLastsUntilRestart : Obligations.SilenceLastsUntilRestart := by
  intro c s t hs hr h
  have hself : SilentSince s s := ⟨hs, fun f hf => ⟨f, hf, rfl⟩, .inl rfl⟩
  by_cases hp : c = .encoderPulse
  · subst hp
    cases h
    exact hself
  · exact (exec_moves c hr hp h).keeps (P := SilentSince s) (fun _ _ m => m.silentSince) hself

/-- Settles O11: no move writes the belt counter. -/
theorem pulsesAloneMoveTheBelt : Obligations.PulsesAloneMoveTheBelt := by
  intro c s t hr h
  by_cases hp : c = .encoderPulse
  · subst hp
    cases h
    rfl
  · rw [if_neg hp]
    exact (exec_moves c hr hp h).belt_pending.1
end

section
/-!
A command whose event cannot occur (log entry 2), and the requests on the robot port (R107): what every command leaves
alone. O3 and O12 are assembled from these.
-/
namespace Sys2Proof.Machine

variable {s t u : State}

/-! ### A command whose event cannot occur (log entry 2) -/

/-- The events that wait to be taken, as the commands test them (R3). -/
theorem isRaised_iff (k : PosKind) (tag : Tag) : isRaised k tag s = true ↔ EventRaised s k tag := by
  simp [isRaised, EventRaised, Position.is, and_assoc]

/-- A buffer whose oldest frame is not the command's hands nothing on. -/
theorem handOn_none (p : Frame → Bool) (act : Frame → State → State)
    (h : ∀ f rest, s.rxBuffer = f :: rest → p f = false) : handOn p act s = s := by
  unfold handOn
  split
  · rfl
  · rw [h _ _ ‹_›]; rfl

/-- A command of kind 3 hands nothing on when the oldest frame is not of its code. -/
theorem handOn_isCode_none {k n : Nat} (act : Frame → State → State) (h : ¬ OldestIs s k (fun f => lowCode f = n)) :
    handOn (isCode k n) act s = s :=
  handOn_none _ _ fun f rest hr => by
    rw [← Bool.not_eq_true]
    intro hc
    simp only [isCode, Bool.and_eq_true, beq_iff_eq] at hc
    exact h ⟨f, rest, hr, hc.1, hc.2⟩

/-- A start-up command hands nothing on when the oldest frame is not of its code. -/
theorem handOn_isStartUp_none {n : Nat} (act : Frame → State → State)
    (h : ¬ OldestIs s 5 (fun f => highNibble f = n)) : handOn (isStartUp n) act s = s :=
  handOn_none _ _ fun f rest hr => by
    rw [← Bool.not_eq_true]
    intro hc
    simp only [isStartUp, Bool.and_eq_true, beq_iff_eq] at hc
    exact h ⟨f, rest, hr, hc.1, hc.2⟩

/-- A command of a kind alone hands nothing on when the oldest frame is of another kind. -/
theorem handOn_kind_none {k : Nat} (act : Frame → State → State) (h : ¬ OldestIs s k (fun _ => True)) :
    handOn (fun f => kindOf f == k) act s = s :=
  handOn_none _ _ fun f rest hr => by
    rw [← Bool.not_eq_true]
    intro hc
    exact h ⟨f, rest, hr, by simpa using hc, trivial⟩

/-- With no operation of a kind in flight, its timer is not running. -/
theorem flightOf_none {k : OpKind} (h : ¬ ∃ g, s.inFlight = some g ∧ g.kind = k) : flightOf k s = none := by
  unfold flightOf
  split
  · rfl
  · rename_i f hf
    exact if_neg fun hk => h ⟨f, hf, by simpa using hk⟩

/-- With no held frame, or one on the line, or in SILENT, arbitration starts nothing (R24, R163). -/
theorem arbitration_none (won : Bool) (h : ¬ CanOccur (.arbitration won) s) : arbitration won s = s := by
  unfold arbitration
  split
  · rename_i hc
    simp only [Bool.and_eq_true, Option.isNone_iff_eq_none, bne_iff_ne] at hc
    have hq : s.txQueue = [] := by
      by_contra hq
      exact h ⟨hc.1.2, hq, onLine_none.mp hc.1.1⟩
    simp [hq, lowestHeld]
  · rfl

/-- Nothing in transmission, nothing found on the line. -/
theorem onLine_eq_none_of_not_exists (h : ¬ ∃ f ∈ s.txQueue, f.inTransmission = true) : onLine s = none :=
  onLine_none.mpr fun f hf => by
    rw [← Bool.not_eq_true]
    exact fun ht => h ⟨f, hf, ht⟩

/-- A command whose event cannot occur changes nothing but the beacons (log entry 2). -/
theorem exec_cannot_occur (c : Instr) (h : ¬ CanOccur c s) : exec c s = .next (showBeacons s) := by
  have key {x : State} (e : x = s) : done x = .next (showBeacons s) := by rw [e]; rfl
  cases c <;> (first | exact absurd trivial h | skip) <;> refine key ?_
  case sendDeadline tag => exact if_neg (mt (isRaised_iff _ _).mp h)
  case closePoint tag => exact if_neg (mt (isRaised_iff _ _).mp h)
  case eyeWindowEnd tag => exact if_neg (mt (isRaised_iff _ _).mp h)
  case pickOpenPoint tag => exact if_neg (mt (isRaised_iff _ _).mp h)
  case pickClosePoint tag => exact if_neg (mt (isRaised_iff _ _).mp h)
  case eyeCapture =>
    have : s.eyeLatch = none := not_not.mp h
    simp [eyeCapture, this]
  case caseNotice => exact handOn_kind_none _ h
  case claim => exact handOn_kind_none _ h
  case miss => exact handOn_kind_none _ h
  case orderOpen => exact handOn_isCode_none _ h
  case orderLines => exact handOn_isCode_none _ h
  case orderCancel => exact handOn_isCode_none _ h
  case buildResume => exact handOn_isCode_none _ h
  case buildRelease => exact handOn_isCode_none _ h
  case clearPrepare => exact handOn_isCode_none _ h
  case clear => exact handOn_isCode_none _ h
  case statusQuery => exact handOn_isCode_none _ h
  case faultQuery => exact handOn_isCode_none _ h
  case rollCall => exact handOn_isStartUp_none _ h
  case lineSetup => exact handOn_isStartUp_none _ h
  case stationSetup1 => exact handOn_isStartUp_none _ h
  case stationSetup2 => exact handOn_isStartUp_none _ h
  case replyReportHelloReady =>
    refine handOn_none _ _ fun f rest hr => ?_
    rw [← Bool.not_eq_true]
    intro hc
    simp only [isStartUp, Bool.or_eq_true, Bool.and_eq_true, beq_iff_eq] at hc
    rcases hc with (hc | hc) | hc
    · exact h (.inl ⟨f, rest, hr, hc, trivial⟩)
    · exact h (.inr ⟨f, rest, hr, hc.1, .inl hc.2⟩)
    · exact h (.inr ⟨f, rest, hr, hc.1, .inr hc.2⟩)
  case arbitration won => exact arbitration_none won h
  case transmissionComplete => simp [transmissionComplete, onLine_eq_none_of_not_exists h]
  case transmissionFailure => simp [transmissionFailure, onLine_eq_none_of_not_exists h]
  case recordDiscarded kind seq p check =>
    refine if_neg fun hc => h ⟨hc.1, ?_⟩
    simpa using hc.2
  case recordAbandoned kind seq length => exact if_neg h
  case interByteTimeout got => exact if_neg h
  case placeExpiry => simp [placeExpiry, flightOf_none h]
  case scanTimeout => simp [scanTimeout, flightOf_none h]
  case swapTimeout => simp [swapTimeout, flightOf_none h]
  case pauseTimerExpiry =>
    unfold pauseTimerExpiry
    split
    · rfl
    · rename_i hp
      exact if_neg fun hs => h ⟨hs, by simp [hp]⟩
  case runBeaconBlink =>
    refine if_neg fun hc => h ⟨hc.1, ?_⟩
    simpa [anyOpen] using hc.2
  case sweepOffer =>
    have : s.sweep = none := not_not.mp h
    simp [sweepOffer, this]

/-- No command writes the queue of waiting commands (log entry 25). -/
theorem exec_pending (c : Instr) (h : exec c s = .next t) : t.pending = s.pending := by
  by_cases hr : restarts c = true
  · obtain ⟨straps, he⟩ := exec_restarts hr s
    rw [he] at h
    cases h
    rcases startUp_cases straps s with e | e <;> rw [showBeacons_pending, e]
  · by_cases hp : c = .encoderPulse
    · subst hp; cases h; rfl
    · exact (exec_moves c (by simpa using hr) hp h).belt_pending.2

/-! ### Requests on the robot port (R107) -/

/-- No request has gone out on the way from s to t. -/
def NoRequest (s t : State) : Prop := t.seqCounter = s.seqCounter ∧ t.utx = s.utx

/-- No request has gone out on the way from s to t, or one with the next number, which is in flight (R107, R108). -/
def OneRequest (s t : State) : Prop :=
  NoRequest s t ∨ t.seqCounter = s.seqCounter + 1 ∧
    ∃ f p, t.inFlight = some f ∧ f.seq = t.seqCounter ∧ f.discard = false ∧
      t.utx = some (recordBytes (requestKind f.kind) t.seqCounter p)

theorem NoRequest.refl (s : State) : NoRequest s s := ⟨rfl, rfl⟩

theorem NoRequest.one (h : NoRequest s t) : OneRequest s t := .inl h

/-- The operations of plan lists and claim unit send no request. -/
theorem NoRequest.frame (h : NoRequest s t) (k : PlanFrame t u) : NoRequest s u :=
  ⟨k.seqCounter.trans h.1, k.utx.trans h.2⟩

theorem NoRequest.leaveRun {x : State} (h : NoRequest s x) : NoRequest s (leaveRun x) :=
  h.frame (leaveRun_frame (.refl x))

theorem NoRequest.updateBuild (b : BuildId) (f : Build → Build) (h : NoRequest s t) :
    NoRequest s (updateBuild b f t) := h.frame (updateBuild_frame b f (.refl t))

/-- A run of the arbiter sends at most one request (R107, R109). -/
theorem NoRequest.runArbiter (h : NoRequest s t) : OneRequest s (runArbiter t) := by
  rcases runArbiter_request t with e | ⟨hn, f, p, hf, hseq, hd, hu⟩
  · rw [e]; exact h.one
  · refine .inr ⟨by rw [hn, h.1], f, p, hf, by rw [hseq, hn], hd, by rw [hu, hn]⟩

theorem NoRequest.ite {c : Prop} [Decidable c] {x y : State} (hx : c → NoRequest s x) (hy : ¬ c → NoRequest s y) :
    NoRequest s (if c then x else y) := by
  split
  · exact hx ‹_›
  · exact hy ‹_›

theorem OneRequest.ite {c : Prop} [Decidable c] {x y : State} (hx : OneRequest s x) (hy : OneRequest s y) :
    OneRequest s (if c then x else y) := by
  split
  · exact hx
  · exact hy

/-- A frame that is handed on is removed; the rest is the command's action (R5). -/
theorem handOn_oneRequest (p : Frame → Bool) (act : Frame → State → State)
    (ha : ∀ f u, NoRequest s u → OneRequest s (act f u)) : OneRequest s (handOn p act s) := by
  unfold handOn
  split
  · exact .inl (.refl s)
  · exact .ite (ha _ _ ⟨rfl, rfl⟩) (.inl (.refl s))

theorem onCommand_oneRequest (f : Frame) (act : State → State) (ha : ∀ u, NoRequest s u → OneRequest s (act u))
    (h : NoRequest s t) : OneRequest s (onCommand f act t) := .ite h.one (ha _ h)

theorem buildCommand_oneRequest (n : Nat) (act : Frame → BuildId → State → State)
    (ha : ∀ f b u, NoRequest s u → OneRequest s (act f b u)) : OneRequest s (buildCommand n act s) := by
  refine handOn_oneRequest _ _ fun f u hu => onCommand_oneRequest _ _ (fun v hv => ?_) hu
  unfold onBuildCommand
  refine .ite hv.one (.ite (.inl hv) ?_)
  split
  · exact .inl hv
  · exact .ite (.inl hv) (ha _ _ _ hv)

theorem onRecord_oneRequest (k n : Byte) (p : List Byte) (c : Byte) (act : State → State)
    (ha : ∀ u, NoRequest s u → OneRequest s (act u)) : OneRequest s (onRecord k n p c act s) :=
  .ite (ha _ ⟨rfl, rfl⟩) (.inl ⟨rfl, rfl⟩)

/-! The build commands (chapter 3). -/

theorem orderOpenOn_noRequest (f : Frame) (b : BuildId) (h : NoRequest s t) : NoRequest s (orderOpenOn f b t) := by
  have h1 : NoRequest s (updateBuild b (Build.load (headerOf f.payload)) t) := h.updateBuild _ _
  unfold orderOpenOn
  simp only
  split
  case h_1 => exact .ite (fun _ => h1) (fun _ => h)
  case h_2 => exact .ite (fun _ => h1) (fun _ => h)
  all_goals exact h

theorem orderLinesOn_oneRequest (f : Frame) (b : BuildId) (h : NoRequest s t) : OneRequest s (orderLinesOn f b t) := by
  unfold orderLinesOn
  split
  · split
    · exact .inl h
    · have h1 : NoRequest s (updateBuild b (Build.addLines (orderLinesOf f.payload)) t) := h.updateBuild _ _
      exact .ite (NoRequest.runArbiter (t := triggerSweep (reportBuild b _)) h1) (.inl h1)
  all_goals exact .inl h

theorem runIfDue_oneRequest (b : BuildId) (h : NoRequest s t) : OneRequest s (runIfDue b t) := by
  unfold runIfDue
  split
  · exact h.runArbiter
  · exact h.runArbiter
  all_goals exact h.one

theorem acceptCancel_oneRequest (b : BuildId) (h : NoRequest s t) : OneRequest s (acceptCancel b t) :=
  runIfDue_oneRequest b (((h.updateBuild b _).frame (offer_frame _ (.refl _))).frame
    (settleEnding_frame b (withdrawBatch_frame b .cancelled (.refl _))))

theorem orderCancelOn_oneRequest (f : Frame) (b : BuildId) (h : NoRequest s t) :
    OneRequest s (orderCancelOn f b t) := by
  unfold orderCancelOn
  simp only
  split
  · exact .inl (NoRequest.frame (h.updateBuild b Build.unload) (reportBuild_frame b (offer_frame _ (.refl _))))
  · exact .ite (acceptCancel_oneRequest b h) (.inl h)
  · exact .ite (.inl h) (.ite (acceptCancel_oneRequest b h) (.inl h))
  all_goals exact .inl h

theorem buildResumeOn_oneRequest (f : Frame) (b : BuildId) (h : NoRequest s t) :
    OneRequest s (buildResumeOn f b t) := by
  unfold buildResumeOn
  simp only
  split
  · exact .ite (.inl h) (.ite (.inl h) (NoRequest.runArbiter (NoRequest.updateBuild b _ h)))
  all_goals exact .inl h

theorem releaseEntries_frame (b : BuildId) (t : State) : PlanFrame t (releaseEntries b t) := by
  have h := foldl_frame (fun t e => dropEntry b e t) (fun _ _ e h => dropEntry_frame b e h) (strandedEntries b t)
    (withdrawMovable_frame b .cancelled (.refl t))
  unfold releaseEntries
  simp only
  split
  · exact h
  · exact recompute_frame b h

theorem acceptRelease_oneRequest (b : BuildId) (h : NoRequest s t) : OneRequest s (acceptRelease b t) :=
  runIfDue_oneRequest b (((h.updateBuild b _).frame (offer_frame _ (.refl _))).frame
    (settleEnding_frame b (releaseEntries_frame b _)))

theorem buildReleaseOn_oneRequest (f : Frame) (b : BuildId) (h : NoRequest s t) :
    OneRequest s (buildReleaseOn f b t) := by
  unfold buildReleaseOn
  simp only
  split
  · exact .ite (.inl h) (acceptRelease_oneRequest b h)
  · exact .ite (.inl h) (acceptRelease_oneRequest b h)
  all_goals exact .inl h

/-! Setup and line clear (chapter 10). -/

theorem reportReady_frame (b : BuildId) (t : State) : PlanFrame t (reportReady b t) := by
  unfold reportReady
  split
  · exact reportBuild_frame b (.refl t)
  · exact .refl t

theorem readyIfComplete_noRequest (h : NoRequest s t) : NoRequest s (readyIfComplete t) := by
  refine .ite (fun _ => ?_) (fun _ => h)
  refine NoRequest.frame ?_ ((reportReady_frame .A _).trans (reportReady_frame .B _))
  exact h

theorem onSetup_noRequest (n : Nat) (ok : Bool) (take : State → State) (ht : NoRequest s (take t))
    (h : NoRequest s t) : NoRequest s (onSetup n ok take t) := by
  unfold onSetup
  split
  · exact h
  · exact .ite (fun _ => readyIfComplete_noRequest ht) (fun _ => h)
  all_goals exact h

theorem lineClear_oneRequest (h : NoRequest s t) : OneRequest s (lineClear t) :=
  NoRequest.runArbiter (NoRequest.frame (t := answer 9 none .accepted (clearBlocks t)) h
    (reportChange_frame .B _ (reportChange_frame .A _ (.refl _))))

/-! The robot port (chapters 6 to 9). -/

theorem streakFailure_noRequest (b : BuildId) (tag : Option Tag) (h : NoRequest s t) :
    NoRequest s (streakFailure b tag t) := by
  unfold streakFailure reachQuickLimit
  simp only
  refine .ite (fun _ => .ite (fun _ => ?_) (fun _ => ?_)) (fun _ => h)
  all_goals
    refine NoRequest.frame ?_ (recordFault_frame _ _ _ _ (.refl _))
    refine NoRequest.leaveRun ?_
    exact h

theorem stepScanTest_noRequest (b : BuildId) (n : Nat) (h : NoRequest s t) : NoRequest s (stepScanTest b n t) :=
  .ite (fun _ => h.updateBuild _ _) (fun _ => h)

theorem outcomePlaced_noRequest (b : BuildId) (e : PlanEntry) (n : Nat) (h : NoRequest s t) :
    NoRequest s (outcomePlaced b e n t) := by
  have h1 : NoRequest s (if deviates t.own2.weightTol n e.weight then count .weightDeviation t else t) :=
    .ite (fun _ => h) (fun _ => h)
  exact stepScanTest_noRequest (s := s) b _ (h1.frame (takePlaced_frame b e _ (.refl _)))

theorem outcomeNotPicked_noRequest (b : BuildId) (e : PlanEntry) (h : NoRequest s t) :
    NoRequest s (outcomeNotPicked b e t) := h.frame (settleEnding_frame b (withdrawAlone_frame b _ e (.refl t)))

theorem becomeUncertain_noRequest (b : BuildId) (e : PlanEntry) (y : Hypotheses) (h : NoRequest s t) :
    NoRequest s (becomeUncertain b e y t) :=
  .ite (fun _ => h.frame (settleEnding_frame b (recompute_frame b (dropEntry_frame b e (.refl t)))))
    (fun _ => (h.updateBuild b _).updateBuild b _)

theorem takeOutcome_noRequest (o : PlaceOutcome) (n : Nat) (b : BuildId) (e : PlanEntry) (h : NoRequest s t) :
    NoRequest s (takeOutcome o n b e t) := by
  cases o with
  | placed => exact outcomePlaced_noRequest b e n h
  | missed => exact streakFailure_noRequest b _ (outcomeNotPicked_noRequest b e h)
  | refused => exact streakFailure_noRequest b _ (outcomeNotPicked_noRequest b e h)
  | dropped => exact streakFailure_noRequest b _ (becomeUncertain_noRequest b e _ h)

/-- What a scan found writes plan lists, builds and fault record alone (R139 to R144). -/
theorem rescanMatch_frame (b : BuildId) (h : PlanFrame s t) : PlanFrame s (rescanMatch b t) := by
  unfold rescanMatch
  refine reportBuild_frame b ?_
  split
  · exact triggerSweep_frame (updateBuild_frame b _ h)
  · exact updateBuild_frame b _ h

theorem finalMatch_frame (b : BuildId) (h : PlanFrame s t) : PlanFrame s (finalMatch b t) :=
  reportBuild_frame b (updateBuild_frame b _ (palletDone_frame b true h))

theorem scanMismatch_frame (b : BuildId) (tag : Option Tag) (h : PlanFrame s t) :
    PlanFrame s (scanMismatch b tag t) := by
  have h1 := recordFault_frame .verifyMismatch .attn (some b) tag h
  unfold scanMismatch
  simp only
  split
  · exact enterHeld_frame b _ h1
  · exact enterHeld_frame b _ h1
  · exact reportBuild_frame b h1
  all_goals exact h1

theorem setMap_frame (b : BuildId) (m : Tiles Bool) (h : PlanFrame s t) : PlanFrame s (setMap b m t) :=
  updateBuild_frame b _ h

theorem plainResult_frame (b : BuildId) (k : ScanKind) (m : Tiles Nat) (h : PlanFrame s t) :
    PlanFrame s (plainResult b k m t) := by
  unfold plainResult
  simp only
  split
  · exact h
  · split
    · split
      · exact finalMatch_frame b (setMap_frame b _ h)
      · split
        · exact rescanMatch_frame b (setMap_frame b _ h)
        · exact setMap_frame b _ h
    · exact scanMismatch_frame b _ (setMap_frame b _ h)

theorem afterResolution_frame (b : BuildId) (k : ScanKind) (o : Bool) (h : PlanFrame s t) :
    PlanFrame s (afterResolution b k o t) := by
  unfold afterResolution
  split
  · exact rescanMatch_frame b h
  · exact h

theorem uncertainResult_frame (b : BuildId) (k : ScanKind) (e : PlanEntry) (m : Tiles Nat) (h : PlanFrame s t) :
    PlanFrame s (uncertainResult b k e m t) := by
  unfold uncertainResult
  simp only
  split
  · exact afterResolution_frame b k _ (takePlaced_frame b e _ (setMap_frame b _ h))
  · split
    · exact afterResolution_frame b k _ (settleEnding_frame b (withdrawAlone_frame b _ e (setMap_frame b _ h)))
    · exact scanMismatch_frame b _ (setMap_frame b _ h)

theorem scanResult_frame (b : BuildId) (fl : ScanFlight) (m : Tiles Nat) (h : PlanFrame s t) :
    PlanFrame s (scanResult b fl m t) := by
  unfold scanResult
  split
  · exact h
  · split
    · exact uncertainResult_frame b _ _ m h
    · exact plainResult_frame b _ m h

theorem scanExpired_frame (b : BuildId) (fl : ScanFlight) (h : PlanFrame s t) : PlanFrame s (scanExpired b fl t) := by
  unfold scanExpired
  split
  · exact h
  · have h1 := recordFault_frame .scanTimeout .attn (some b) ((uncertainEntry (t.build b)).map PlanEntry.tag) h
    simp only
    split
    · exact enterHeld_frame b _ h1
    · exact enterHeld_frame b _ h1
    all_goals exact h1

theorem sweepIfStillOpen_frame (b : BuildId) (st : BuildState) (h : PlanFrame s t) :
    PlanFrame s (sweepIfStillOpen b st t) := by
  unfold sweepIfStillOpen
  split
  · exact triggerSweep_frame h
  · exact h

theorem endScanFlight_noRequest (b : BuildId) (h : NoRequest s t) : NoRequest s (endScanFlight b t) := h.updateBuild b _
theorem endSwapFlight_noRequest (b : BuildId) (h : NoRequest s t) : NoRequest s (endSwapFlight b t) := h.updateBuild b _

theorem takePlaceDone_oneRequest (f : InFlight) (o : PlaceOutcome) (n : Nat) (h : NoRequest s t) :
    OneRequest s (takePlaceDone f o n t) := by
  refine NoRequest.runArbiter (.ite (fun _ => h) fun _ => ?_)
  split
  · exact h
  · exact takeOutcome_noRequest o n _ _ (t := freePort t) h

theorem takeScanData_oneRequest (f : InFlight) (m : Tiles Nat) (h : NoRequest s t) :
    OneRequest s (takeScanData f m t) := by
  have h1 : NoRequest s (endScanFlight f.build (freePort t)) := endScanFlight_noRequest _ h
  refine NoRequest.runArbiter (NoRequest.frame ?_ (sweepIfStillOpen_frame _ _ (.refl _)))
  refine .ite (fun _ => h1) fun _ => ?_
  split
  · exact h1
  · exact h1.frame (scanResult_frame _ _ m (.refl _))

theorem takeSwapDone_oneRequest (f : InFlight) (h : NoRequest s t) : OneRequest s (takeSwapDone f t) := by
  have h1 : NoRequest s (endSwapFlight f.build (freePort t)) := endSwapFlight_noRequest _ h
  exact NoRequest.runArbiter (.ite (fun _ => h1) fun _ => (h1.updateBuild _ _).frame (reportBuild_frame _ (.refl _)))

theorem placeExpiry_oneRequest (s : State) : OneRequest s (placeExpiry s) := by
  unfold placeExpiry
  split
  · exact .inl (.refl s)
  · refine NoRequest.runArbiter (.ite (fun _ => .refl s) fun _ => ?_)
    split
    · exact .refl s
    · rename_i f _ _ _ e _
      refine streakFailure_noRequest _ _ ?_
      exact becomeUncertain_noRequest f.build e .placedOrNot (t := expireFlight f s) (.refl s)

theorem scanTimeout_oneRequest (s : State) : OneRequest s (scanTimeout s) := by
  unfold scanTimeout
  split
  · exact .inl (.refl s)
  · rename_i f _
    have h1 : NoRequest s (endScanFlight f.build (expireFlight f s)) := endScanFlight_noRequest _ (.refl s)
    refine NoRequest.runArbiter (NoRequest.frame ?_ (sweepIfStillOpen_frame _ _ (.refl _)))
    refine .ite (fun _ => h1) fun _ => ?_
    split
    · exact h1
    · exact h1.frame (scanExpired_frame _ _ (.refl _))

theorem swapTimeout_oneRequest (s : State) : OneRequest s (swapTimeout s) := by
  unfold swapTimeout
  split
  · exact .inl (.refl s)
  · rename_i f _
    have h1 : NoRequest s (endSwapFlight f.build (expireFlight f s)) := endSwapFlight_noRequest _ (.refl s)
    refine NoRequest.runArbiter (.ite (fun _ => h1) fun _ => ?_)
    exact h1.frame (reportBuild_frame _ (updateBuild_frame _ _ (recordFault_frame _ _ _ _ (.refl _))))

/-! The belt side and the depot line (chapters 1, 2, 6 and 12). -/

theorem giveUp_frame (tag : Tag) (m : MissReason) (t : State) : PlanFrame t (giveUp tag m t) := by
  unfold giveUp
  split
  · exact .refl t
  · split
    · exact .refl t
    · exact withdrawAlone_frame _ m _ (.refl t)

theorem closeRecord_frame (tag : Tag) (t : State) : PlanFrame t (closeRecord tag t) := by
  unfold closeRecord
  split
  · exact unregister_frame _ tag (.refl t)
  · exact removeRecord_frame tag (closeDecision_frame _ (.refl t))

theorem arrive_oneRequest (p : PickEntry) (c : Count) (h : NoRequest s t) : OneRequest s (arrive p c t) := by
  refine OneRequest.ite (s := s) (NoRequest.runArbiter ?_) (.inl ?_)
  · exact NoRequest.ite (s := s) (fun _ => h) (fun _ => h)
  · exact NoRequest.ite (s := s) (fun _ => h) (fun _ => h)

theorem eyeCapture_oneRequest (s : State) : OneRequest s (eyeCapture s) := by
  unfold eyeCapture
  split
  · exact .inl (.refl s)
  · refine .ite ?_ (.inl (.refl s))
    split
    · exact .inl (.refl s)
    · exact arrive_oneRequest _ _ (.refl s)

theorem frameReception_noRequest (f : Frame) (own : Bool) (s : State) : NoRequest s (frameReception f own s) := by
  have hb {t : State} (h : NoRequest s t) : NoRequest s (bufferFrame f t) := .ite (fun _ => h) (fun _ => h)
  rcases frameReception_cases f own s with ⟨-, e⟩ | ⟨-, ⟨-, -, e⟩ | ⟨-, ⟨-, e⟩ | ⟨-, e⟩⟩⟩ <;> rw [e]
  · exact .refl s
  · exact hb (.refl s)
  · exact hb (NoRequest.leaveRun (x := { s with station := .silent, pauseTimer := none, pairing := none }) (.refl s))
  · exact hb (.refl s)

theorem takeNotice_noRequest (p : List Byte) (h : NoRequest s t) : NoRequest s (takeNotice p t) := by
  unfold takeNotice
  split
  · exact h
  · refine NoRequest.frame ?_ (evaluate_frame _ (.refl _))
    exact NoRequest.ite (s := s) (fun _ => h) (fun _ => h)

theorem arbitration_noRequest (won : Bool) (s : State) : NoRequest s (arbitration won s) := by
  refine .ite (fun _ => ?_) (fun _ => .refl s)
  split
  · exact .refl s
  · exact .refl s

theorem transmissionComplete_noRequest (s : State) : NoRequest s (transmissionComplete s) := by
  unfold transmissionComplete
  split
  · exact .refl s
  · split <;> exact .refl s

theorem claimFailed_frame (tag : Tag) (t : State) : PlanFrame t (claimFailed tag t) := by
  unfold claimFailed
  split
  · exact .refl t
  · split
    · exact removeBidEntry_frame _ (toUnbid_frame tag (.refl t))
    · exact toUnbid_frame tag (.refl t)
    all_goals exact .refl t

theorem transmissionFailure_noRequest (s : State) : NoRequest s (transmissionFailure s) := by
  unfold transmissionFailure
  split
  · exact .refl s
  · refine .ite (fun _ => ?_) (fun _ => .refl s)
    split
    · exact .refl s
    · exact NoRequest.frame (t := dropOnLine (forgetOwn s)) (.refl s) (claimFailed_frame _ _)

theorem sweepOffer_noRequest (s : State) : NoRequest s (sweepOffer s) := by
  unfold sweepOffer
  split
  · exact .refl s
  · split
    · exact .refl s
    · rename_i r _
      have h1 : NoRequest s (evaluate r s) := (NoRequest.refl s).frame (evaluate_frame r (.refl s))
      exact .ite (fun _ => h1) (fun _ => h1)

theorem pauseTimerExpiry_oneRequest (s : State) : OneRequest s (pauseTimerExpiry s) := by
  unfold pauseTimerExpiry
  split
  · exact .inl (.refl s)
  · exact .ite (NoRequest.runArbiter (.refl s)) (.inl (.refl s))

/-- Every command but a start sends at most one request, with the next number (R107). -/
theorem exec_oneRequest (c : Instr) (hr : restarts c = false) (h : exec c s = .next t) : OneRequest s t := by
  have none : NoRequest s s := .refl s
  cases c
  case powerOn => cases hr
  case reset => cases hr
  all_goals
    injection h with h
    subst h
  case encoderPulse => exact .inl none
  case sendDeadline tag => exact .inl (.ite (fun _ => none.frame (takeDeadline_frame tag (.refl s))) (fun _ => none))
  case closePoint tag =>
    refine .inl (.ite (fun _ => NoRequest.frame ?_ (closeRecord_frame tag _)) (fun _ => none))
    exact .ite (fun _ => none.frame (takeDeadline_frame tag (.refl s))) (fun _ => none)
  case eyeWindowEnd tag => exact .inl (.ite (fun _ => NoRequest.frame none (giveUp_frame tag _ _)) (fun _ => none))
  case pickOpenPoint tag => exact OneRequest.ite (s := s) (NoRequest.runArbiter none) (.inl none)
  case pickClosePoint tag => exact .inl (.ite (fun _ => NoRequest.frame none (giveUp_frame tag _ _)) (fun _ => none))
  case eyeEdge => exact .inl (by show NoRequest s (eyeEdge s); unfold eyeEdge; split <;> exact none)
  case eyeCapture => exact eyeCapture_oneRequest s
  case frameReception f own => exact .inl (frameReception_noRequest f own s)
  case caseNotice =>
    exact handOn_oneRequest _ _ fun f u hu => .inl (.ite (fun _ => takeNotice_noRequest _ hu) (fun _ => hu))
  case claim => exact handOn_oneRequest _ _ fun f u hu => .inl (hu.frame (hearClaim_frame _ _ (.refl u)))
  case miss => exact handOn_oneRequest _ _ fun f u hu => .inl hu
  case orderOpen => exact buildCommand_oneRequest _ _ fun f b u hu => .inl (orderOpenOn_noRequest f b hu)
  case orderLines => exact buildCommand_oneRequest _ _ fun f b u hu => orderLinesOn_oneRequest f b hu
  case orderCancel => exact buildCommand_oneRequest _ _ fun f b u hu => orderCancelOn_oneRequest f b hu
  case buildResume => exact buildCommand_oneRequest _ _ fun f b u hu => buildResumeOn_oneRequest f b hu
  case buildRelease => exact buildCommand_oneRequest _ _ fun f b u hu => buildReleaseOn_oneRequest f b hu
  case clearPrepare =>
    exact handOn_oneRequest _ _ fun f u hu => onCommand_oneRequest f _ (fun v hv => .ite (.inl hv) (.inl hv)) hu
  case clear =>
    exact handOn_oneRequest _ _ fun f u hu => onCommand_oneRequest f _
      (fun v hv => .ite (.inl hv) (.ite (lineClear_oneRequest hv) (.inl hv))) hu
  case statusQuery =>
    exact handOn_oneRequest _ _ fun f u hu => onCommand_oneRequest f _
      (fun v hv => .inl (NoRequest.ite (s := s) (fun _ => hv) (fun _ => hv))) hu
  case faultQuery =>
    exact handOn_oneRequest _ _ fun f u hu => onCommand_oneRequest f _
      (fun v hv => .inl (NoRequest.ite (s := s) (fun _ => hv) (fun _ => hv))) hu
  case rollCall => exact handOn_oneRequest _ _ fun f u hu => .ite (.inl hu) (.inl hu)
  case lineSetup => exact handOn_oneRequest _ _ fun f u hu => .inl (onSetup_noRequest _ _ _ hu hu)
  case stationSetup1 =>
    exact handOn_oneRequest _ _ fun f u hu => .ite (.inl (onSetup_noRequest _ _ _ hu hu)) (.inl hu)
  case stationSetup2 =>
    exact handOn_oneRequest _ _ fun f u hu => .ite (.inl (onSetup_noRequest _ _ _ hu hu)) (.inl hu)
  case arbitration won => exact .inl (arbitration_noRequest won s)
  case transmissionComplete => exact .inl (transmissionComplete_noRequest s)
  case transmissionFailure => exact .inl (transmissionFailure_noRequest s)
  case placeDone n p c =>
    refine onRecord_oneRequest _ _ _ _ _ fun u hu => ?_
    split
    · exact takePlaceDone_oneRequest _ _ _ hu
    · exact .inl hu
  case scanData n p c =>
    refine onRecord_oneRequest _ _ _ _ _ fun u hu => ?_
    split
    · exact takeScanData_oneRequest _ _ hu
    · exact .inl hu
  case swapDone n p c =>
    refine onRecord_oneRequest _ _ _ _ _ fun u hu => ?_
    split
    · exact takeSwapDone_oneRequest _ hu
    · exact .inl hu
  case robotState n p c =>
    exact onRecord_oneRequest _ _ _ _ _ fun u hu => OneRequest.ite (s := s) (NoRequest.runArbiter hu) (.inl hu)
  case interByteTimeout got => exact .inl (.ite (fun _ => none) (fun _ => none))
  case placeExpiry => exact placeExpiry_oneRequest s
  case scanTimeout => exact scanTimeout_oneRequest s
  case swapTimeout => exact swapTimeout_oneRequest s
  case pauseTimerExpiry => exact pauseTimerExpiry_oneRequest s
  case sweepOffer => exact .inl (sweepOffer_noRequest s)
  case runBeaconBlink => exact .inl (.ite (fun _ => none) (fun _ => none))
  case recordDiscarded k n p c => exact .inl (.ite (fun _ => none) (fun _ => none))
  case recordAbandoned k n l => exact .inl (.ite (fun _ => none) (fun _ => none))
  case replyReportHelloReady => exact handOn_oneRequest _ _ fun f u hu => .inl hu

end Sys2Proof.Machine

open Sys2Proof Sys2Proof.Machine

/-- Settles O3: every command ends by showing the beacons; one whose event cannot occur does nothing else. -/
theorem everyCommandCompletes : Obligations.EveryCommandCompletes := by
  intro c s
  obtain ⟨u, hu⟩ := exec_next c s
  refine ⟨_, hu, exec_pending c hu, fun hn => ?_⟩
  rw [exec_cannot_occur c hn] at hu
  rw [← Host.Outcome.next.inj hu]
  rfl

/-- Settles O12: the arbiter alone sends requests, and a command runs it at most once. -/
theorem requestsTakeTheNextNumber : Obligations.RequestsTakeTheNextNumber := by
  refine ⟨⟨rfl, rfl, rfl⟩, fun c s t hr h => ?_⟩
  rcases exec_oneRequest c hr h with hn | ⟨hn, hrest⟩
  · exact .inl hn
  · exact .inr ⟨by rw [hn, BitVec.toNat_add]; rfl, hrest⟩
end

section
/-!
One step, the starts and the small commands (chapters 1, 6, 10, 11): idling, power-on, the pulse and the eye edge,
reception, the pairing of a line clear, ROLL CALL, the blink and ROBOT STATE.
-/
namespace Sys2Proof.Machine

variable {s t : State} {f : Frame} {rest : List Frame}

/-! ### Robot-port records (R105, R177) -/

/-- Bytes that do not yet end a record: fewer than the length byte's three, or a payload or its check byte to come. -/
theorem partialRecord_iff (got : List Byte) :
    partialRecord got = true ↔ got.length < 3 ∨ ∃ kind seq len p, got = kind :: seq :: len :: p ∧
      len.toNat ≤ 48 ∧ p.length ≤ len.toNat := by
  match got with
  | [] => simp [partialRecord]
  | [_] => simp [partialRecord]
  | [_, _] => simp [partialRecord]
  | kind :: seq :: len :: p =>
    rw [partialRecord, Bool.and_eq_true, decide_eq_true_eq, decide_eq_true_eq]
    exact ⟨fun h => .inr ⟨_, _, _, _, rfl, h⟩, by
      rintro (h | ⟨_, _, _, _, ⟨⟩, h⟩)
      · exact absurd h (by simp)
      · exact h⟩

/-- The payload lengths of the kinds that the part receives (R105). -/
theorem recordLength_iff (kind : Byte) (n : Nat) :
    recordLength kind = some n ↔ (kind.toNat, n) ∈ [(0x81, 3), (0x82, 48), (0x83, 0), (0x84, 1)] := by
  unfold recordLength
  split <;> simp_all [eq_comm]

/-- A record passes with the CRC-8 of its bytes and the length of its kind (R105). -/
theorem recordPasses_iff (kind seq check : Byte) (p : List Byte) :
    recordPasses kind seq p check = true ↔
      (kind.toNat, p.length) ∈ [(0x81, 3), (0x82, 48), (0x83, 0), (0x84, 1)] ∧
        check = crc8 (kind :: seq :: BitVec.ofNat 8 p.length :: p) := by
  rw [recordPasses, Bool.and_eq_true, beq_iff_eq, beq_iff_eq, recordLength_iff, crcBody, eq_comm (a := check),
    and_comm]

/-- The CRC-8 written as one fold over the bytes and their bits (12 section 12.5). -/
theorem crc8_eq (bytes : List Byte) :
    crc8 bytes = bytes.foldl (fun c b =>
      Nat.repeat (fun x : Byte => if x.msb = true then (x <<< 1) ^^^ 7 else x <<< 1) 8 (c ^^^ b)) 0 := rfl

/-- A record that passes has at most 48 payload bytes (R105). -/
theorem recordPasses_length {kind seq check : Byte} {p : List Byte} (h : recordPasses kind seq p check = true) :
    p.length ≤ 48 := by
  have hm := ((recordPasses_iff _ _ _ _).mp h).1
  simp only [List.mem_cons, Prod.mk.injEq, List.not_mem_nil, or_false] at hm
  omega

/-- A record that passes is handed on, the receiver idle (R105). -/
theorem onRecord_passes {kind seq check : Byte} {p : List Byte} (act : State → State)
    (h : recordPasses kind seq p check = true) : onRecord kind seq p check act s = act (receiverIdle s) :=
  if_pos ⟨recordPasses_length h, h⟩

/-- The command that an assembled record raises, kind by kind (R105). -/
theorem recordCommand_eq (kind seq check : Byte) (p : List Byte) :
    recordCommand kind seq p check =
      if recordPasses kind seq p check = false then .recordDiscarded kind seq p check
      else if kind.toNat = 0x81 then .placeDone seq p check
      else if kind.toNat = 0x82 then .scanData seq p check
      else if kind.toNat = 0x83 then .swapDone seq p check
      else .robotState seq p check := by
  unfold recordCommand
  by_cases h : recordPasses kind seq p check = true
  · have hm := ((recordPasses_iff _ _ _ _).mp h).1
    simp only [List.mem_cons, Prod.mk.injEq, List.not_mem_nil, or_false] at hm
    rcases hm with hm | hm | hm | hm <;> simp [h, hm.1]
  · simp [h]

/-! ### Idling (R155, R177) -/

/-- The gap inside a record (R177). -/
theorem gapPassed_iff (s : State) :
    gapPassed s = true ↔ ∃ got last, s.receiver = .taking got last ∧ 5 < (s.timeBase - last).toNat := by
  unfold gapPassed
  split <;> rename_i h <;> simp [h]

theorem idle_gap (h : gapPassed s = true) : idle s = showBeacons (raiseGap s) := if_pos h

theorem idle_tick (h : gapPassed s = false) (hu : s.urx = []) : idle s = tick s := by simp [idle, h, hu]

theorem idle_byte {b : Byte} {bytes : List Byte} (h : gapPassed s = false) (hu : s.urx = b :: bytes) :
    idle s = showBeacons (receiveByte b bytes s) := by simp [idle, h, hu]

/-- A byte received on an empty queue: the receiver and the raised command are those of the byte (R177). -/
theorem receiveByte_eq {b : Byte} {bytes : List Byte} {r : Receiver} {o : Option Instr}
    (h : takeByte s.timeBase s.receiver b = (r, o)) :
    receiveByte b bytes s = { s with urx := bytes, receiver := r, pending := o.toList ++ s.pending } := by
  simp [receiveByte, h]

/-! ### The starts (R155) -/

/-- With a station number on the straps the part starts in AWAIT CONFIG with a HELLO (R155). -/
theorem startUp_number (straps : BitVec 4) (s : State) (h : 1 ≤ straps.toNat ∧ straps.toNat ≤ 12) :
    startUp straps s = { State.blank with
      pending := s.pending, urx := s.urx, station := .awaitConfig, stationNumber := some straps.toNat
      txQueue := [TxFrame.fresh (.hello false false false)] } := by
  have : isStationNumber straps.toNat = true := by simpa [isStationNumber] using h
  simp only [startUp, this, if_true]
  rfl

/-- With any other value on the straps the part starts SILENT (R155). -/
theorem startUp_silent (straps : BitVec 4) (s : State) (h : straps.toNat = 0 ∨ 13 ≤ straps.toNat) :
    startUp straps s = { State.blank with pending := s.pending, urx := s.urx } := by
  have : isStationNumber straps.toNat = false := by
    rw [← Bool.not_eq_true]; simp [isStationNumber]; omega
  simp only [startUp, this]
  rfl

/-- With nothing planned, tracked or in flight and no swap due or hold origin, the plans are sound. -/
theorem plansSound_of_fresh (hb : ∀ b, s.build b = Build.atPowerOn) (ht : s.track = []) (hf : s.inFlight = none) :
    PlansSound s where
  accounts b := by
    rw [hb b]
    exact ⟨fun e he => absurd he List.not_mem_nil, fun i => absurd i.isLt (Nat.not_lt_zero _)⟩
  tags := by
    have ha : s.buildA = Build.atPowerOn := hb .A
    have hb : s.buildB = Build.atPowerOn := hb .B
    rw [ha, hb]
    exact List.nodup_nil
  track := by rw [TrackTagsDistinct, ht]; exact List.nodup_nil
  unbacked r hr := by rw [ht] at hr; exact absurd hr List.not_mem_nil
  states b h := by rw [hb b] at h; exact absurd rfl h
  origin b h := by rw [hb b] at h; exact HoldOrigin.noConfusion h
  swapDue b h := by rw [hb b] at h; exact Bool.noConfusion h
  swapping f h := by rw [hf] at h; cases h
  waiting _ b := by rw [hb b]; rfl

/-! ### Reception (R162, R175, 12 section 12.1) -/

/-- Two bytes, most significant first (R176). -/
theorem wordAt_toNat (p : List Byte) (i : Nat) :
    (wordAt p i).toNat = 256 * (byteAt p i).toNat + (byteAt p (i + 1)).toNat := by
  rw [wordAt, BitVec.toNat_append, ← Nat.shiftLeft_add_eq_or_of_lt (BitVec.isLt _), Nat.shiftLeft_eq, mul_comm]

/-- Four bytes, most significant first (R176). -/
theorem longAt_toNat (p : List Byte) (i : Nat) :
    (longAt p i).toNat = 65536 * (wordAt p i).toNat + (wordAt p (i + 2)).toNat := by
  rw [longAt, BitVec.toNat_append, ← Nat.shiftLeft_add_eq_or_of_lt (BitVec.isLt _), Nat.shiftLeft_eq, mul_comm]

/-- Kind and detail of an identifier (12 section 12.1). -/
theorem kindOf_detailOf {k d : Nat} (h : f.ident.toNat = k * 256 + d) (hd : d < 256) :
    kindOf f = k ∧ detailOf f = d := by
  unfold kindOf detailOf
  omega

/-- A frame's kind is at most 7 and each half of its detail at most 15 (12 section 12.1). -/
theorem kindOf_lt (f : Frame) : kindOf f < 8 := by
  have := f.ident.isLt
  unfold kindOf
  omega

/-- The required lengths of the commands (12 section 12.3). -/
theorem requiredLength_command (hk : kindOf f = 3) (need : Nat) :
    requiredLength f = some need ↔ (lowCode f, need) ∈
      [(1, 11), (2, if 1 ≤ (byteAt f.payload 2).toNat ∧ (byteAt f.payload 2).toNat ≤ 4
        then 3 + 3 * (byteAt f.payload 2).toNat else 3), (3, 1), (4, 1), (5, 1), (8, 2), (9, 2), (12, 1), (13, 1)] := by
  simp only [requiredLength, hk, List.mem_cons, Prod.mk.injEq, List.not_mem_nil, or_false]
  generalize (if 1 ≤ (byteAt f.payload 2).toNat ∧ (byteAt f.payload 2).toNat ≤ 4
    then 3 + 3 * (byteAt f.payload 2).toNat else 3) = n
  split <;> grind

/-- The required lengths of the reports (12 section 12.4; log entry 22). -/
theorem requiredLength_report (hk : kindOf f = 4) (need : Nat) :
    requiredLength f = some need ↔
      (lowCode f, need) ∈ [(0, 5), (1, 12), (2, 16), (3, 11), (4, 12), (5, 13)] ∨ 5 < lowCode f ∧ need = 0 := by
  simp only [requiredLength, hk, List.mem_cons, Prod.mk.injEq, List.not_mem_nil, or_false]
  split <;> grind

/-- The required lengths of the start-up frames (12 section 12.4). -/
theorem requiredLength_startUp (hk : kindOf f = 5) (need : Nat) :
    requiredLength f = some need ↔
      (highNibble f, need) ∈ [(0, 0), (1, 14), (2, 14), (3, 11), (4, 7), (5, 3)] := by
  simp only [requiredLength, hk, List.mem_cons, Prod.mk.injEq, List.not_mem_nil, or_false]
  split <;> grind

/-- Discarded and taken frames, kind by kind (R175). -/
theorem frameAccepted_iff (f : Frame) :
    frameAccepted f = true ↔ ∃ need, requiredLength f = some need ∧ need ≤ f.payload.length ∧
      stationDetailOk f = true := by
  unfold frameAccepted
  split <;> rename_i h <;> simp [h]

/-- Which frames the line interface takes (R175; log entries 21 and 22). -/
theorem frameAccepted_fields {k d : Nat} (h : f.ident.toNat = k * 256 + d) (hd : d < 256) :
    frameAccepted f = true ↔ ∃ need, need ≤ f.payload.length ∧
      (k = 0 ∧ need = 12 ∨
        k = 1 ∧ need = 5 ∧ 1 ≤ d % 16 ∧ d % 16 ≤ 12 ∨
        k = 2 ∧ need = 3 ∧ d ≠ 0 ∧ ¬ (13 ≤ d ∧ d ≤ 15) ∨
        k = 3 ∧ (d % 16, need) ∈
          [(1, 11), (2, if 1 ≤ (byteAt f.payload 2).toNat ∧ (byteAt f.payload 2).toNat ≤ 4
            then 3 + 3 * (byteAt f.payload 2).toNat else 3), (3, 1), (4, 1), (5, 1), (8, 2), (9, 2), (12, 1), (13, 1)] ∨
        k = 4 ∧ ((d % 16, need) ∈ [(0, 5), (1, 12), (2, 16), (3, 11), (4, 12), (5, 13)] ∨ 5 < d % 16 ∧ need = 0) ∨
        k = 5 ∧ (d / 16, need) ∈ [(0, 0), (1, 14), (2, 14), (3, 11), (4, 7), (5, 3)]) := by
  obtain ⟨hk, hdet⟩ := kindOf_detailOf h hd
  have hlow : lowCode f = d % 16 := by rw [lowCode, hdet]
  have hhigh : highNibble f = d / 16 := by rw [highNibble, hdet]
  have hk8 : k < 8 := hk ▸ kindOf_lt f
  rw [frameAccepted_iff]
  refine exists_congr fun need => ?_
  rw [and_left_comm]
  refine and_congr_right fun _ => ?_
  interval_cases k
  · simp [requiredLength, stationDetailOk, hk, eq_comm]
  · simp [requiredLength, stationDetailOk, hk, isStationNumber, claimStation, hdet, eq_comm (a := 5)]
  · simp [requiredLength, stationDetailOk, hk, hdet, eq_comm (a := 3)]; omega
  · rw [requiredLength_command hk, hlow]; simp [stationDetailOk, hk]
  · rw [requiredLength_report hk, hlow]; simp [stationDetailOk, hk]
  · rw [requiredLength_startUp hk, hhigh]; simp [stationDetailOk, hk]
  · simp [requiredLength, hk]
  · simp [requiredLength, hk]

/-- The station number of the station-sourced kinds (R162). -/
theorem sourceStation_fields {k d : Nat} (h : f.ident.toNat = k * 256 + d) (hd : d < 256) :
    sourceStation f =
      if k = 1 then some (d % 16) else if k = 2 then some d else if k = 4 then some (d / 16)
      else if k = 5 ∧ (d / 16 = 4 ∨ d / 16 = 5) then some (byteAt f.payload 0).toNat else none := by
  obtain ⟨hk, hdet⟩ := kindOf_detailOf h hd
  have hhigh : highNibble f = d / 16 := by rw [highNibble, hdet]
  have hk8 : k < 8 := hk ▸ kindOf_lt f
  unfold sourceStation
  rw [hk, hhigh, claimStation, hdet]
  interval_cases k <;> simp

/-- A frame of another node is no duplicate in SILENT, with no station number, or with another number (R162). -/
theorem isDuplicate_eq_false
    (h : s.station = .silent ∨ s.stationNumber = none ∨ sourceStation f ≠ s.stationNumber) :
    isDuplicate f s = false := by
  rcases h with h | h | h <;> simp [isDuplicate, h]

/-- A frame finds room in the receive buffer, or is lost and counted (R5). -/
theorem bufferFrame_room (hl : s.rxBuffer.length < 16) :
    bufferFrame f s = { s with rxBuffer := s.rxBuffer ++ [f] } := if_neg (Nat.not_le.mpr hl)

theorem bufferFrame_full (hl : 16 ≤ s.rxBuffer.length) : bufferFrame f s = count .rxLost s := if_pos hl

/-- A frame is marked the station's own when the command says so and it is the one not yet received back (R162). -/
theorem isOwn_iff (own : Bool) : isOwn f own s = true ↔ own = true ∧ s.ownSent = some f := by simp [isOwn]

/-- A duplicate keeps the frame that is to come back: leaving RUN writes plan lists and claims alone. -/
theorem enterSilent_ownSent (s : State) : (enterSilent s).ownSent = s.ownSent := by
  have h := (leaveRun_frame (.refl { s with station := .silent, pauseTimer := none, pairing := none })).ownSent
  exact h

theorem bufferFrame_ownSent (f : Frame) (s : State) : (bufferFrame f s).ownSent = s.ownSent := by
  unfold bufferFrame
  split <;> rfl

/-- What is still to come back after a reception (R25, R162; log entry 35). -/
theorem frameReception_ownSent (f : Frame) (own : Bool) (s : State) :
    (frameReception f own s).ownSent =
      if frameAccepted f = true ∧ own = true ∧ s.ownSent = some f then none else s.ownSent := by
  rcases frameReception_cases f own s with ⟨ha, e⟩ | ⟨ha, ⟨ho, hf, e⟩ | ⟨ho, ⟨-, e⟩ | ⟨-, e⟩⟩⟩ <;> rw [e]
  · rw [if_neg (by simp [ha])]
  · rw [if_pos ⟨ha, ho, hf⟩, bufferFrame_ownSent]; rfl
  · rw [if_neg (by grind), bufferFrame_ownSent, enterSilent_ownSent]
  · rw [if_neg (by grind), bufferFrame_ownSent]

/-- An accepted frame that is no duplicate is buffered (R5, R162). -/
theorem frameReception_buffers {own : Bool} (ha : frameAccepted f = true)
    (h : (own = true ∧ s.ownSent = some f) ∨ s.station = .silent ∨ s.stationNumber = none ∨
      sourceStation f ≠ s.stationNumber) :
    frameReception f own s = bufferFrame f (if isOwn f own s then forgetOwn s else s) := by
  have hd : isOwn f own s = false → isDuplicate f s = false := fun ho => by
    rcases h with h | h
    · exact absurd ((isOwn_iff own).mpr h) (by simp [ho])
    · exact isDuplicate_eq_false h
  rw [frameReception, if_pos ha]
  cases ho : isOwn f own s
  · rw [hd ho]; rfl
  · rfl

/-! ### The queries of the start-up and the pairing (R156, R164) -/

/-- CLEAR as its frame is taken: the live prepare that it is compared with is the one before it (R164). -/
theorem clear_taken (h : TakesCommand s 9 f rest) :
    clear s =
      if s.station = .awaitConfig then answer 9 none .notReady { s with rxBuffer := rest, pairing := none }
      else if s.pairing = some (wordAt f.payload 0) then lineClear { s with rxBuffer := rest, pairing := none }
      else answer 9 none .noPrepare { s with rxBuffer := rest, pairing := none } := by
  have ⟨hrx, hcode, _, _⟩ := h
  rw [clear, handOn_takes _ _ hrx hcode]
  exact onCommand_takes h _

/-- CLEAR_PREPARE as its frame is taken (R164). -/
theorem clearPrepare_taken (h : TakesCommand s 8 f rest) :
    clearPrepare s =
      if s.station = .awaitConfig then answer 8 none .notReady { s with rxBuffer := rest, pairing := none }
      else answer 8 none .accepted { s with rxBuffer := rest, pairing := some (wordAt f.payload 0) } :=
  handOn_onCommand_takes h (fun f t =>
    if t.station = .awaitConfig then answer 8 none .notReady t
    else answer 8 none .accepted { t with pairing := some (wordAt f.payload 0) })

/-- With room out of SILENT a command is answered by one REPLY (R26, R43). -/
theorem answer_room (code : Nat) (b : Option BuildId) (r : ReplyCode) (hs : s.station ≠ .silent)
    (hl : s.txQueue.length < txCapacity) :
    answer code b r s = { s with
      txQueue := s.txQueue ++ [TxFrame.fresh (.reply 3 (BitVec.ofNat 8 code) b r (replyIndex code b s))] } :=
  offer_room _ hs hl

/-! ### The blink (R172) -/

/-- The next change of the blink comes at most half a second on, and the blink then has the other level, but at the
wrap of the time base. -/
theorem nextBlink_spec (m : Millis) (h : m.toNat < 4294967000) :
    m.toNat < (nextBlink m).toNat ∧ (nextBlink m).toNat ≤ m.toNat + 500 ∧
      ((nextBlink m).toNat % 1000 < 500 ↔ ¬ m.toNat % 1000 < 500) := by
  have hadd : ∀ k, m.toNat + k < 4294967296 → (m + BitVec.ofNat 32 k).toNat = m.toNat + k := fun k hk => by
    rw [BitVec.toNat_add, BitVec.toNat_ofNat, Nat.mod_eq_of_lt (a := k) (by omega), Nat.mod_eq_of_lt (by omega)]
  unfold nextBlink
  rw [if_neg (by omega)]
  split
  · rw [hadd _ (by omega)]; omega
  · rw [hadd _ (by omega)]; omega

/-! ### Operations that only end (R113, R114, R122, R144) -/

/-- A change of one build's record writes the two build fields alone. -/
theorem updateBuild_eq (b : BuildId) (g : Build → Build) (s : State) :
    updateBuild b g s = { s with buildA := (updateBuild b g s).buildA, buildB := (updateBuild b g s).buildB } := by
  cases b <;> rfl

/-- No operation of the kind and number in flight, nothing matched (R113). -/
theorem matchesFlight_none {k : OpKind} {seq : Byte} (h : ∀ g, s.inFlight = some g → g.kind ≠ k ∨ g.seq ≠ seq) :
    matchesFlight k seq s = none := by
  unfold matchesFlight
  split
  · rfl
  · rename_i g hg
    refine if_neg ?_
    have := h g hg
    simp only [Bool.and_eq_true, beq_iff_eq]
    tauto

/-- The operation of the kind and number in flight is matched (R113). -/
theorem matchesFlight_some {g : InFlight} (h : s.inFlight = some g) : matchesFlight g.kind g.seq s = some g := by
  simp [matchesFlight, h]

theorem flightOf_some {g : InFlight} (h : s.inFlight = some g) : flightOf g.kind s = some g := by
  simp [flightOf, h]

/-- A completion that matches nothing is counted, whether or not its record passes (R105, R113). -/
theorem onRecord_linkError {kind seq check : Byte} {p : List Byte} {act : State → State}
    (h : act (receiverIdle s) = linkError (receiverIdle s)) :
    onRecord kind seq p check act s = linkError (receiverIdle s) := by
  unfold onRecord
  split
  · exact h
  · rfl

/-- An outcome byte outside 1 to 4 is no outcome (12 section 12.5). -/
theorem outcomeOf_none {p : List Byte} (h : (byteAt p 0).toNat = 0 ∨ 4 < (byteAt p 0).toNat) : outcomeOf p = none := by
  unfold outcomeOf
  split
  case h_5 => rfl
  all_goals exfalso; omega

/-- An outcome byte from 1 to 4 is an outcome (12 section 12.5). -/
theorem outcomeOf_some {p : List Byte} (h1 : 1 ≤ (byteAt p 0).toNat) (h4 : (byteAt p 0).toNat ≤ 4) :
    ∃ o, outcomeOf p = some o := by
  have h : (byteAt p 0).toNat = 1 ∨ (byteAt p 0).toNat = 2 ∨ (byteAt p 0).toNat = 3 ∨ (byteAt p 0).toNat = 4 := by
    omega
  rcases h with h | h | h | h <;> simp [outcomeOf, h]

/-- A robot that is not ready: the end of a command runs the arbiter for nothing (R106). -/
theorem showBeacons_runArbiter_robot (h : s.robotReady = false) : showBeacons (runArbiter s) = showBeacons s := by
  rw [runArbiter_robot h]

/-! ### Matched completions and expiries (R113, R114) -/

/-- The end of a scan whose result is not taken: the scan is in flight no more, and a build in OPEN gets its sweep (R20;
log entry 27). -/
theorem endScanFlight_sweep (b : BuildId) (u : State) (hr : u.robotReady = false) :
    ∃ w, runArbiter (sweepIfStillOpen b (u.build b).state (endScanFlight b u)) = w ∧
      w.build b = { u.build b with scanInFlight := none } ∧ (∀ c, c ≠ b → w.build c = u.build c) ∧
      ((u.build b).state ≠ .opened → w.sweep = u.sweep ∧ w.pendingSweep = u.pendingSweep) ∧
      ((u.build b).state = .opened → w.sweep.isSome = true) ∧
      w = { u with buildA := w.buildA, buildB := w.buildB, sweep := w.sweep, pendingSweep := w.pendingSweep } := by
  have hf := updateBuild_eq b (fun x => { x with scanInFlight := none }) u
  have hother : ∀ c, c ≠ b → (endScanFlight b u).build c = u.build c := fun c hc => updateBuild_build_other u b c _ hc
  refine ⟨_, runArbiter_robot (by unfold sweepIfStillOpen endScanFlight; split <;> rw [hf] <;> exact hr), ?_⟩
  unfold sweepIfStillOpen
  split
  · rename_i ho
    exact ⟨by simp [endScanFlight], fun c hc => by simp [hother c hc], fun hn => absurd ho.1 hn, fun _ => rfl,
      by rw [endScanFlight, hf]; rfl⟩
  · rename_i ho
    refine ⟨by simp [endScanFlight], hother, fun _ => by rw [endScanFlight, hf]; exact ⟨rfl, rfl⟩, fun h => ?_,
      by rw [endScanFlight, hf]⟩
    exact absurd ⟨h, by simpa [endScanFlight] using h⟩ ho

section
variable {g : InFlight} {p : List Byte} {check : Byte} (hg : s.inFlight = some g)
include hg

theorem placeDone_matched {o : PlaceOutcome} (hk : g.kind = .place)
    (hp : recordPasses 0x81 g.seq p check = true) (ho : outcomeOf p = some o) :
    placeDone g.seq p check s = takePlaceDone g o (measuredWeight p) (receiverIdle s) := by
  have hm : matchesFlight .place g.seq (receiverIdle s) = some g := hk ▸ matchesFlight_some hg
  refine (onRecord_passes _ hp).trans ?_
  simp only [hm, ho]

theorem scanData_matched (hk : g.kind = .scan) (hp : recordPasses 0x82 g.seq p check = true) :
    scanData g.seq p check s = takeScanData g (measuredHeights p) (receiverIdle s) := by
  have hm : matchesFlight .scan g.seq (receiverIdle s) = some g := hk ▸ matchesFlight_some hg
  refine (onRecord_passes _ hp).trans ?_
  simp only [hm]

theorem swapDone_matched (hk : g.kind = .swap) (hp : recordPasses 0x83 g.seq p check = true) :
    swapDone g.seq p check s = takeSwapDone g (receiverIdle s) := by
  have hm : matchesFlight .swap g.seq (receiverIdle s) = some g := hk ▸ matchesFlight_some hg
  refine (onRecord_passes _ hp).trans ?_
  simp only [hm]

end

end Sys2Proof.Machine

open Sys2Proof Sys2Proof.Machine

/-- Settles O1: by the definition of a step. -/
theorem stepRunsTheFrontCommand : Obligations.StepRunsTheFrontCommand := by
  intro c rest s h
  simp only [step, h]

/-- Settles O2: an idle step raises the gap, receives a byte, or counts a millisecond. -/
theorem idleStepPassesOneMillisecond : Obligations.IdleStepPassesOneMillisecond := by
  refine ⟨partialRecord_iff, fun s hp => ⟨idle s, by simp only [step, hp], ?gap, ?go⟩⟩
  case gap =>
    intro got lastAt hr hgap
    rw [idle_gap ((gapPassed_iff s).mpr ⟨got, lastAt, hr, hgap⟩), raiseGap, hp]
    rfl
  case go =>
    intro hgap
    have hg : gapPassed s = false := by
      rw [← Bool.not_eq_true, gapPassed_iff]
      rintro ⟨got, last, hr, h⟩
      exact absurd (hgap got last hr) (by omega)
    refine ⟨fun hu => ?tick, fun b rest hu => ?byte⟩
    case tick =>
      rw [idle_tick hg hu]
      exact ⟨by simp [tick], rfl⟩
    case byte =>
      rw [idle_byte hg hu]
      refine ⟨fun hr => ?_, fun got lastAt hr h => ?_, fun kind seq lastAt hr h => ?_,
        fun kind seq len p lastAt cmd hr hlen hpl hcmd => ?_⟩
      · have hb : b.toNat = 0x7E ↔ b = 0x7E := by rw [BitVec.toNat_eq]; rfl
        have e : takeByte s.timeBase s.receiver b = (if b = 0x7E then .taking [] s.timeBase else .idle, none) := by
          rw [hr]; rfl
        rw [receiveByte_eq e]
        simp only [hb]
        rfl
      · rw [receiveByte_eq (hr ▸ takeByte_goes_on s.timeBase lastAt got b h)]
        rfl
      · rw [receiveByte_eq (hr ▸ takeByte_abandons s.timeBase lastAt kind seq b h), hp]
        rfl
      · rw [receiveByte_eq (hr ▸ takeByte_assembles s.timeBase lastAt kind seq len b p hlen hpl), hp,
          recordCommand_eq, ← hcmd]
        rfl

/-- Settles O5: at reset nothing is held but one HELLO. -/
theorem resetIsSafe : Obligations.ResetIsSafe :=
  ⟨by decide, by decide, rfl, List.nodup_nil, fun r hr => absurd hr List.not_mem_nil,
    plansSound_of_fresh (fun b => by cases b <;> rfl) rfl rfl, by decide⟩

/-- Settles O14: the two branches of the start. -/
theorem powerOnReadsTheStraps : Obligations.PowerOnReadsTheStraps := by
  intro straps s
  refine ⟨_, rfl, rfl, ?_⟩
  have hdeck : ∀ i : Fin 24, Surface.deck.height[i] = 0 ∧ Surface.deck.margin[i] = 60000 ∧
      Surface.deck.height[i] = 0 ∧ Surface.deck.margin[i] = 60000 ∧ clearMap[i] = false := by
    intro i; simp [Surface.deck, deckMargin, clearMap]
  have hsame : ∀ x ∈ [Surface.deck, Surface.deck],
      x = Surface.deck ∧ x.weight = 0 ∧ x.mx = 0 ∧ x.my = 0 ∧ x.cases = 0 := by decide
  have hbuild : ∀ x : Build, x = Build.atPowerOn → x.state = .unused ∧ x.order = none ∧ x.lines = [] ∧
      x.nextLine = 0 ∧ x.ending = .noEnding ∧ x.plan = [] ∧ x.scanDue = none ∧ x.scanInFlight = none ∧
      x.holdOrigin = .noOrigin ∧ x.swapDue = false ∧ x.swapInFlight = false ∧
      (∀ i : Fin 24, x.built.height[i] = 0 ∧ x.built.margin[i] = 60000 ∧ x.planned.height[i] = 0 ∧
        x.planned.margin[i] = 60000 ∧ x.mismatch[i] = false) ∧
      (∀ y ∈ [x.built, x.planned], y = Surface.deck ∧ y.weight = 0 ∧ y.mx = 0 ∧ y.my = 0 ∧ y.cases = 0) := by
    rintro _ rfl
    exact ⟨rfl, rfl, rfl, rfl, rfl, rfl, rfl, rfl, rfl, rfl, rfl, hdeck, hsame⟩
  by_cases h : 1 ≤ straps.toNat ∧ straps.toNat ≤ 12
  · rw [powerOn, startUp_number straps s h]
    refine ⟨fun _ => ⟨rfl, rfl, rfl, rfl⟩, fun hn => absurd hn (by omega), rfl, rfl, rfl, rfl, rfl, rfl, rfl,
      rfl, rfl, rfl, rfl, rfl, rfl, rfl, rfl, rfl, rfl, rfl, rfl, rfl, rfl, rfl, rfl, rfl, rfl, rfl,
      Counters.zero_toList, fun b => hbuild _ (by cases b <;> rfl), rfl, rfl⟩
  · rw [powerOn, startUp_silent straps s (by omega)]
    refine ⟨fun hn => absurd hn h, fun _ => ⟨rfl, rfl, rfl, rfl⟩, rfl, rfl, rfl, rfl, rfl, rfl, rfl,
      rfl, rfl, rfl, rfl, rfl, rfl, rfl, rfl, rfl, rfl, rfl, rfl, rfl, rfl, rfl, rfl, rfl, rfl, rfl,
      Counters.zero_toList, fun b => hbuild _ (by cases b <;> rfl), rfl, rfl⟩

/-- Settles O15: the counter wraps, and the positions it meets are raised. -/
theorem encoderPulseCountsAndRaises : Obligations.EncoderPulseCountsAndRaises := by
  intro s
  have hb : (s.belt + 1).toNat = (s.belt.toNat + 1) % 65536 := by rw [BitVec.toNat_add]; rfl
  refine ⟨_, exec_encoderPulse s, hb, List.map_congr_left fun p _ => ?_, rfl⟩
  have hmet : (p.value.toNat == (s.belt.toNat + 1) % 65536) = decide (p.value = s.belt + 1) := by
    rw [← hb, beq_eq_decide, decide_eq_decide, BitVec.toNat_eq]
  rw [hmet]
  by_cases h : p.value = s.belt + 1
  · rw [if_pos h, decide_eq_true h, Bool.or_true]
  · rw [if_neg h, decide_eq_false h, Bool.or_false]

/-- Settles O16: an empty and a full latch. -/
theorem eyeEdgeCapturesOrOverruns : Obligations.EyeEdgeCapturesOrOverruns := by
  intro s
  refine ⟨fun h => ⟨showBeacons (eyeEdge s), rfl, ?_⟩, fun c h => ⟨showBeacons (eyeEdge s), rfl, ?_⟩⟩
  · simp only [eyeEdge, h]; rfl
  · have he : eyeEdge s = count .eyeOverrun s := by simp only [eyeEdge, h]
    rw [he]; rfl

/-- Settles O29: the fields of a frame, the frames taken, and where a taken frame goes. -/
theorem receivedFramesAreBuffered : Obligations.ReceivedFramesAreBuffered := by
  refine ⟨fun p i => ⟨rfl, wordAt_toNat p i, longAt_toNat p i⟩, fun f k d h hd => ?fields, fun s f own => ?reception⟩
  case fields =>
    obtain ⟨hk, hdet⟩ := kindOf_detailOf h hd
    have hlow : lowCode f = d % 16 := by rw [lowCode, hdet]
    have hhigh : highNibble f = d / 16 := by rw [highNibble, hdet]
    refine ⟨⟨hk, hdet, hlow, hhigh, fun kind code => ?_, fun code => ?_⟩, frameAccepted_fields h hd,
      sourceStation_fields h hd⟩
    · simp [isCode, hk, hlow]
    · simp [isStartUp, hk, hhigh]
  case reception =>
    refine ⟨_, rfl, fun ha => ?_, frameReception_ownSent f own s, fun ha h => ⟨fun hl => ?_, fun hl => ?_⟩⟩
    · rw [frameReception, if_neg (by simp [ha])]; rfl
    · rw [frameReception_buffers ha h]
      split
      · rw [bufferFrame_room (by exact hl)]; rfl
      · rw [bufferFrame_room hl]; rfl
    · rw [frameReception_buffers ha h]
      split
      · rw [bufferFrame_full (by exact hl)]; rfl
      · rw [bufferFrame_full hl]; rfl

/-- Settles O31: the two commands whose action is none. -/
theorem framesWithoutActionAreRemoved : Obligations.FramesWithoutActionAreRemoved := by
  intro s f rest hrx
  refine ⟨fun hk => ⟨showBeacons (miss s), rfl, ?_⟩, fun hk => ⟨showBeacons (replyReportHelloReady s), rfl, ?_⟩⟩
  · rw [miss, handOn_takes _ _ hrx (by simp [hk])]; rfl
  · rw [replyReportHelloReady, handOn_takes _ _ hrx (by rcases hk with hk | ⟨hk, hn | hn⟩ <;> simp [isStartUp, *])]
    rfl

/-- Settles O40: the pairing rows of R164. -/
theorem clearPairingIsKept : Obligations.ClearPairingIsKept := by
  intro s f rest hl
  refine ⟨fun h => ⟨showBeacons (clearPrepare s), rfl, ?_⟩, fun h hn => ⟨showBeacons (clear s), rfl, ?_⟩⟩
  · rw [clearPrepare_taken h]
    obtain ⟨-, -, -, hs⟩ := h
    split
    · rw [answer_room _ _ _ (by exact hs) (by exact hl)]; rfl
    · rw [answer_room _ _ _ (by exact hs) (by exact hl)]; rfl
  · rw [clear_taken h]
    obtain ⟨-, -, -, hs⟩ := h
    split
    · rw [answer_room _ _ _ (by exact hs) (by exact hl)]; rfl
    · rename_i ha
      rw [if_neg (hn.resolve_left ha), answer_room _ _ _ (by exact hs) (by exact hl)]; rfl

/-- Settles O42: ROLL CALL in AWAIT CONFIG and elsewhere. -/
theorem rollCallIsAnsweredWhileWaiting : Obligations.RollCallIsAnsweredWhileWaiting := by
  intro s f rest hrx hcode hl
  refine ⟨showBeacons (rollCall s), rfl, ?_⟩
  rw [rollCall, handOn_takes _ _ hrx hcode]
  by_cases ha : s.station = .awaitConfig
  · rw [if_pos (by exact ha), if_pos ha, offer_room _ (by simp [ha]) (by exact hl)]; rfl
  · rw [if_neg (by exact ha), if_neg ha]; rfl

/-- Settles O46: the next change of the blink. -/
theorem runBeaconBlinks : Obligations.RunBeaconBlinks := by
  intro s hs ha hb ht
  obtain ⟨hlt, hle, hblink⟩ := nextBlink_spec s.timeBase ht
  refine ⟨showBeacons (runBeaconBlink s), rfl, ?_⟩
  have hcond : s.station = .run ∧ (!anyOpen s) = true := ⟨hs, by simp [anyOpen, ha, hb]⟩
  rw [runBeaconBlink, if_pos hcond]
  refine ⟨hle, hlt, ?_, rfl⟩
  rw [showBeacons_beacons, runBeacon_iff, ← hblink]
  exact ⟨fun h => (h.2.resolve_left ha).resolve_left hb, fun h => ⟨hs, .inr (.inr h)⟩⟩

/-- Settles O47: the flag is set, and the arbiter runs on a change to ready. -/
theorem robotStateSetsTheFlag : Obligations.RobotStateSetsTheFlag := by
  intro s seq p check _ hpass
  refine ⟨showBeacons (robotState seq p check s), rfl, ?_⟩
  have he : robotState seq p check s = takeRobotState (byteAt p 0 != 0) (receiverIdle s) :=
    onRecord_passes _ hpass
  rw [he, takeRobotState]
  have hflag : (byteAt p 0 != 0) = true ↔ byteAt p 0 ≠ 0 := bne_iff_ne
  refine ⟨?_, fun h => ?_, fun h0 hr => ⟨_, rfl, ?_⟩⟩
  · simp only [showBeacons_robotReady]
    split
    · rw [runArbiter_frame]; exact hflag
    · exact hflag
  · rw [if_neg (by rcases h with h | h <;> simp [h, receiverIdle])]; rfl
  · rw [hflag.mpr h0, if_pos (by simp [hr, receiverIdle])]
    rfl

/-- Settles O48: errors are counted once, and marked operations only end. -/
theorem linkErrorsAndStaleRecordsAreCounted : Obligations.LinkErrorsAndStaleRecordsAreCounted := by
  refine ⟨fun kind seq check p => by rw [recordPasses_iff, crc8_eq], gapPassed_iff,
    fun s kind seq check length p got c hc => ⟨?discarded, ?abandoned, ?gap, ?unmatched, ?outcome, ?ends⟩⟩
  case discarded =>
    intro hl hp
    refine ⟨showBeacons (recordDiscarded kind seq p check s), rfl, ?_⟩
    rw [recordDiscarded, if_pos ⟨hl, by simp [hp]⟩, hc]
    rfl
  case abandoned =>
    intro hl
    refine ⟨showBeacons (recordAbandoned kind seq length s), rfl, ?_⟩
    rw [recordAbandoned, if_pos (by exact hl), hc]
    rfl
  case gap =>
    intro hp
    refine ⟨showBeacons (interByteTimeout got s), rfl, ?_⟩
    rw [interByteTimeout, if_pos hp, hc]
    have : ∀ x y : Millis, (if (got.isEmpty && gapPassed s) = true then x else y) =
        if got = [] ∧ gapPassed s = true then x else y := by intros; simp
    rw [runGap, this]
    rfl
  case unmatched =>
    rintro cmd k (⟨rfl, rfl⟩ | ⟨rfl, rfl⟩ | ⟨rfl, rfl⟩) hn
    · refine ⟨showBeacons (placeDone seq p check s), rfl, ?_⟩
      rw [placeDone, onRecord_linkError (by rw [matchesFlight_none (by exact hn)]), hc]; rfl
    · refine ⟨showBeacons (scanData seq p check s), rfl, ?_⟩
      rw [scanData, onRecord_linkError (by rw [matchesFlight_none (by exact hn)]), hc]; rfl
    · refine ⟨showBeacons (swapDone seq p check s), rfl, ?_⟩
      rw [swapDone, onRecord_linkError (by rw [matchesFlight_none (by exact hn)]), hc]; rfl
  case outcome =>
    intro hb
    refine ⟨showBeacons (placeDone seq p check s), rfl, ?_⟩
    rw [placeDone, onRecord_linkError (by rw [outcomeOf_none hb]; split <;> simp_all), hc]; rfl
  case ends =>
    intro g hg hr
    refine ⟨fun hk hd => ?place, fun hk hd cmd hcmd => ?swap, fun hk hd cmd hcmd => ?scan⟩
    case place =>
      refine ⟨⟨showBeacons (placeExpiry s), rfl, ?_⟩, fun hseq hp h1 h4 => ?_⟩
      · have he : placeExpiry s = runArbiter (expireFlight g s) := by
          rw [placeExpiry, ← hk, flightOf_some hg]; simp [hd]
        rw [he, showBeacons_runArbiter_robot (by exact hr)]
        rfl
      · obtain ⟨o, ho⟩ := outcomeOf_some h1 h4
        subst hseq
        have he : placeDone g.seq p check s = runArbiter (freePort (receiverIdle s)) := by
          rw [placeDone_matched hg hk hp ho]; simp [takePlaceDone, hd]
        refine ⟨showBeacons (placeDone g.seq p check s), rfl, ?_⟩
        rw [he, showBeacons_runArbiter_robot (by exact hr)]
        rfl
    case swap =>
      have hends {u : State} (hu : u.robotReady = false) (hb : ∀ b, u.build b = s.build b) :
          (showBeacons (runArbiter (endSwapFlight g.build u))).build g.build =
              { s.build g.build with swapInFlight := false } ∧
            ∀ b, b ≠ g.build → (showBeacons (runArbiter (endSwapFlight g.build u))).build b = s.build b := by
        rw [runArbiter_robot (by rw [endSwapFlight, updateBuild_eq]; exact hu)]
        refine ⟨by simp [endSwapFlight, hb], fun b hb' => ?_⟩
        rw [showBeacons_build, endSwapFlight, updateBuild_build_other _ _ _ _ hb', hb]
      rcases hcmd with rfl | ⟨rfl, hseq, hp⟩
      · have he : swapTimeout s = runArbiter (endSwapFlight g.build (expireFlight g s)) := by
          rw [swapTimeout, ← hk, flightOf_some hg]; simp [hd]
        obtain ⟨h1, h2⟩ := hends (u := expireFlight g s) hr (fun b => by simp [expireFlight])
        refine ⟨showBeacons (swapTimeout s), rfl, ?_⟩
        rw [he]
        refine ⟨h1, h2, fun hn => absurd rfl hn, ?_⟩
        rw [showBeacons_runArbiter_robot (by rw [endSwapFlight, updateBuild_eq]; exact hr), endSwapFlight,
          updateBuild_eq]
        rfl
      · subst hseq
        have he : swapDone g.seq p check s = runArbiter (endSwapFlight g.build (freePort (receiverIdle s))) := by
          rw [swapDone_matched hg hk hp]; simp [takeSwapDone, hd]
        obtain ⟨h1, h2⟩ := hends (u := freePort (receiverIdle s)) hr (fun b => by cases b <;> rfl)
        refine ⟨showBeacons (swapDone g.seq p check s), rfl, ?_⟩
        rw [he]
        rw [runArbiter_robot (by rw [endSwapFlight, updateBuild_eq]; exact hr)] at h1 h2 ⊢
        refine ⟨h1, h2, fun _ => by rw [endSwapFlight, updateBuild_eq]; rfl, ?_⟩
        rw [endSwapFlight, updateBuild_eq]
        rfl
    case scan =>
      rcases hcmd with rfl | ⟨rfl, hseq, hp⟩
      · have he : scanTimeout s = runArbiter (sweepIfStillOpen g.build ((expireFlight g s).build g.build).state
            (endScanFlight g.build (expireFlight g s))) := by
          have hb : ∀ b, (expireFlight g s).build b = s.build b := fun b => by simp [expireFlight]
          rw [scanTimeout, ← hk, flightOf_some hg, hb]
          rcases hd with hd | ⟨fl, hfl, hrel⟩
          · simp [hd]
          · simp [hfl, scanExpired, hrel]
        obtain ⟨w, hw, h1, h2, h3, h4, h5⟩ := endScanFlight_sweep g.build (expireFlight g s) hr
        have hb : ∀ b, (expireFlight g s).build b = s.build b := fun b => by simp [expireFlight]
        simp only [hb] at h1 h2 h3 h4
        refine ⟨showBeacons (scanTimeout s), rfl, ?_⟩
        rw [he, hw]
        refine ⟨by rw [showBeacons_build, h1], fun b hb => by rw [showBeacons_build, h2 b hb],
          fun hn => absurd rfl hn, h3, h4, ?_⟩
        rw [h5]
        rfl
      · subst hseq
        have hb : ∀ b, (freePort (receiverIdle s)).build b = s.build b := fun b => by cases b <;> rfl
        have he : scanData g.seq p check s = runArbiter (sweepIfStillOpen g.build
            ((freePort (receiverIdle s)).build g.build).state (endScanFlight g.build (freePort (receiverIdle s)))) := by
          have hb' : ∀ b, (receiverIdle s).build b = s.build b := fun b => by cases b <;> rfl
          rw [scanData_matched hg hk hp, takeScanData, hb, hb']
          rcases hd with hd | ⟨fl, hfl, hrel⟩
          · simp [hd]
          · simp [hfl, scanResult, hrel]
        obtain ⟨w, hw, h1, h2, h3, h4, h5⟩ := endScanFlight_sweep g.build (freePort (receiverIdle s)) hr
        simp only [hb] at h1 h2 h3 h4
        refine ⟨showBeacons (scanData g.seq p check s), rfl, ?_⟩
        rw [he, hw]
        refine ⟨by rw [showBeacons_build, h1], fun b hb => by rw [showBeacons_build, h2 b hb],
          fun _ => by rw [h5]; rfl, h3, h4, ?_⟩
        rw [h5]
        rfl
end

section
/-!
The eye and the pick order list (chapter 6): the entry that a capture goes to, what its arrival writes, and what the
pick open point writes. O17 and O18 are assembled from these.
-/
namespace Sys2Proof.Machine

variable {s : State}

/-- Where keys are distinct, a change of the element with one key changes that element alone. -/
theorem map_at_key {α β : Type} [BEq β] [LawfulBEq β] (key : α → β) (g : α → α) {older newer : List α} {p : α}
    (h : ((older ++ p :: newer).map key).Nodup) :
    (older ++ p :: newer).map (fun x => if key x == key p then g x else x) = older ++ g p :: newer := by
  rw [List.map_append, List.map_cons, List.nodup_append, List.nodup_cons] at h
  obtain ⟨_, ⟨hnewer, _⟩, holder⟩ := h
  have hkeep (l : List α) (hl : ∀ x ∈ l, key x ≠ key p) :
      l.map (fun x => if key x == key p then g x else x) = l :=
    (List.map_congr_left fun x hx => if_neg (by simpa using hl x hx)).trans l.map_id'
  rw [List.map_append, List.map_cons, hkeep older, hkeep newer]
  · simp
  · exact fun x hx he => hnewer (he ▸ List.mem_map_of_mem hx)
  · exact fun x hx => holder _ (List.mem_map_of_mem hx) _ List.mem_cons_self

/-- An eye window holds a capture when both ends count as inside (R2, R101). -/
theorem insideWindow_iff (c a b : Count) : insideWindow c a b = true ↔ (c - a).toNat ≤ (b - a).toNat := by
  simp [insideWindow]

/-- The entry that a capture goes to is the first in AWAIT EYE whose window holds it (R101). -/
theorem eyeCandidate_first {c : Count} {older newer : List PickEntry} {p : PickEntry} (hs : s.pick = older ++ p :: newer)
    (hp : p.phase = .awaitEye) (hin : (c - p.winStart).toNat ≤ (p.winEnd - p.winStart).toNat)
    (hno : ∀ q ∈ older, q.phase = .awaitEye → (q.winEnd - q.winStart).toNat < (c - q.winStart).toNat) :
    eyeCandidate c s = some p := by
  rw [eyeCandidate, List.find?_eq_some_iff_append]
  simp only [Bool.and_eq_true, Bool.not_eq_true', ← Bool.not_eq_true, beq_iff_eq, insideWindow_iff]
  exact ⟨⟨hp, hin⟩, older, newer, hs, fun q hq h => Nat.not_le.mpr (hno q hq h.1) h.2⟩

/-- A capture that no window holds has no entry to go to (R101). -/
theorem eyeCandidate_none {c : Count}
    (hno : ∀ q ∈ s.pick, q.phase = .awaitEye → (q.winEnd - q.winStart).toNat < (c - q.winStart).toNat) :
    eyeCandidate c s = none := by
  rw [eyeCandidate, List.find?_eq_none]
  simp only [Bool.and_eq_true, beq_iff_eq, insideWindow_iff]
  exact fun q hq h => Nat.not_le.mpr (hno q hq h.1) h.2

/-- The states in which captures are matched (R101, R121). -/
theorem matchesCaptures_iff (st : StationState) :
    matchesCaptures st = true ↔ st = .run ∨ st = .paused ∨ st = .stalled := by
  cases st <;> decide

/-- A capture is taken from the latch by the entry whose window holds it (R17, R101). -/
theorem eyeCapture_matched {c : Count} {p : PickEntry} (hc : s.eyeLatch = some c)
    (hst : s.station = .run ∨ s.station = .paused ∨ s.station = .stalled) (hp : eyeCandidate c s = some p) :
    eyeCapture s = arrive p c { s with eyeLatch := none } := by
  have hp' : eyeCandidate c { s with eyeLatch := none } = some p := hp
  simp [eyeCapture, hc, (matchesCaptures_iff _).mpr hst, hp']

/-- A capture is discarded where no captures are matched, and where no window holds it (R101). -/
theorem eyeCapture_discarded {c : Count} (hc : s.eyeLatch = some c)
    (h : s.station = .awaitConfig ∨ s.station = .silent ∨ eyeCandidate c s = none) :
    eyeCapture s = { s with eyeLatch := none } := by
  rcases h with h | h | h
  · simp [eyeCapture, hc, h, matchesCaptures]
  · simp [eyeCapture, hc, h, matchesCaptures]
  · have h' : eyeCandidate c { s with eyeLatch := none } = none := h
    simp only [eyeCapture, hc, h', ite_self]

/-- An arrival with its open point ahead registers both pick points and grants nothing (R101). -/
theorem arrive_ahead {p : PickEntry} {c : Count} (h : reached s.belt (c + s.own1.pickOpen) = false) :
    arrive p c s = { s with
      pick := s.pick.map fun q => if q.tag == p.tag then
        { q with phase := .arrived ⟨c, c + s.own1.pickOpen, c + s.own1.pickClose, false⟩ } else q
      positions := s.positions.filter (fun q => !(q.kind == .eyeWindowEnd && q.tag == p.tag)) ++
        [⟨.pickOpen, p.tag, c + s.own1.pickOpen, false⟩,
          ⟨.pickClose, p.tag, c + s.own1.pickClose, reached s.belt (c + s.own1.pickClose)⟩] } := by
  simp [arrive, h, register, unregister, setPhase, Position.is]

/-- An arrival whose open point is reached opens the window at once and registers the close point alone; a held port
grants nothing (R103, R109). -/
theorem arrive_reached {p : PickEntry} {c : Count} (h : reached s.belt (c + s.own1.pickOpen) = true)
    (hport : PortHeld s) :
    arrive p c s = { s with
      pick := s.pick.map fun q => if q.tag == p.tag then
        { q with phase := .arrived ⟨c, c + s.own1.pickOpen, c + s.own1.pickClose, true⟩ } else q
      positions := s.positions.filter (fun q => !(q.kind == .eyeWindowEnd && q.tag == p.tag)) ++
        [⟨.pickClose, p.tag, c + s.own1.pickClose, reached s.belt (c + s.own1.pickClose)⟩] } := by
  unfold arrive
  simp only [h, if_true]
  rw [runArbiter_held (by exact hport)]
  rfl

/-- A raised open point opens the window of its entry and is withdrawn; a held port grants nothing (R103, R109). -/
theorem pickOpenPoint_opens {tag : Tag} (hr : EventRaised s .pickOpen tag) (hport : PortHeld s) :
    pickOpenPoint tag s = { s with
      pick := s.pick.map fun q => if q.tag == tag then { q with phase := q.phase.openIt } else q
      positions := s.positions.filter (fun q => !(q.kind == .pickOpen && q.tag == tag)) } := by
  rw [pickOpenPoint, if_pos ((isRaised_iff _ _).mpr hr)]
  exact runArbiter_held hport

end Sys2Proof.Machine

open Sys2Proof Sys2Proof.Machine

/-- Settles O17: the entry is found by `eyeCandidate_first`, and its arrival writes what `arrive_ahead` or
`arrive_reached` says. -/
theorem eyeCaptureIsMatchedOrDiscarded : Obligations.EyeCaptureIsMatchedOrDiscarded := by
  intro s c hc
  constructor
  · intro older p newer hst hpick hnodup hp hin hno
    have hcand := eyeCandidate_first hpick hp hin hno
    rw [hpick] at hnodup
    refine ⟨showBeacons (eyeCapture s), rfl, fun hopen => ?_, fun hopen hport => ?_⟩
    · have hahead : reached s.belt (c + s.own1.pickOpen) = false := by
        rw [← Bool.not_eq_true, reached_iff]; omega
      have hmap := map_at_key PickEntry.tag
        (fun q => { q with phase := .arrived ⟨c, c + s.own1.pickOpen, c + s.own1.pickClose, false⟩ }) hnodup
      rw [← hpick] at hmap
      rw [eyeCapture_matched hc hst hcand, arrive_ahead (by exact hahead)]
      simp only [showBeacons, State.own1, reached] at hmap ⊢
      rw [hmap]
      rfl
    · have hreached : reached s.belt (c + s.own1.pickOpen) = true := (reached_iff _ _).mpr hopen
      have hmap := map_at_key PickEntry.tag
        (fun q => { q with phase := .arrived ⟨c, c + s.own1.pickOpen, c + s.own1.pickClose, true⟩ }) hnodup
      rw [← hpick] at hmap
      rw [eyeCapture_matched hc hst hcand, arrive_reached (by exact hreached) (by exact hport)]
      simp only [showBeacons, State.own1, reached] at hmap ⊢
      rw [hmap]
      rfl
  · intro h
    refine ⟨showBeacons (eyeCapture s), rfl, ?_⟩
    rw [eyeCapture_discarded hc (h.imp_right (Or.imp_right eyeCandidate_none))]
    rfl

/-- Settles O18, by `pickOpenPoint_opens`. -/
theorem pickOpenPointOpensTheWindow : Obligations.PickOpenPointOpensTheWindow := by
  intro s tag older newer p m hr hpick hnodup htag hp hport
  subst htag
  refine ⟨showBeacons (pickOpenPoint p.tag s), rfl, ?_⟩
  have hmap := map_at_key PickEntry.tag (fun q => { q with phase := q.phase.openIt }) (hpick ▸ hnodup)
  rw [← hpick, hp] at hmap
  rw [pickOpenPoint_opens hr hport, hmap]
  rfl
end

section
/-!
Claims heard, candidates and bids (chapter 2): the comparison of claims (R13), what a build and the station offer (R18,
R21, R49, R50), what a bid writes (R23), and how a sweep goes on (R20). O25, O26 and O28 are assembled from these.
-/
namespace Sys2Proof.Machine

variable {s : State}

/-! ### The first element under a key -/

/-- The element that a search by key finds is the first of the list that holds the key. -/
theorem find?_key_iff {α β : Type} [BEq β] [LawfulBEq β] (key : α → β) (k : β) (l : List α) (r : α) :
    l.find? (fun x => key x == k) = some r ↔
      ∃ older newer, l = older ++ r :: newer ∧ key r = k ∧ ∀ q ∈ older, key q ≠ k := by
  rw [List.find?_eq_some_iff_append]
  simp only [beq_iff_eq, Bool.not_eq_true', beq_eq_false_iff_ne]
  grind

/-- The record of a tag is the first of the track list that holds it. -/
theorem findRecord_iff (tag : Tag) (r : TrackRecord) : findRecord tag s = some r ↔
    ∃ older newer, s.track = older ++ r :: newer ∧ r.tag = tag ∧ ∀ q ∈ older, q.tag ≠ tag :=
  find?_key_iff TrackRecord.tag tag s.track r

/-- Where tags are distinct, each record of the list is the one of its tag. -/
theorem findRecord_of_mem (h : TrackTagsDistinct s) {r : TrackRecord} (hr : r ∈ s.track) :
    findRecord r.tag s = some r := by
  obtain ⟨older, newer, hl⟩ := List.append_of_mem hr
  refine (findRecord_iff _ _).mpr ⟨older, newer, hl, rfl, fun q hq he => ?_⟩
  rw [TrackTagsDistinct, hl, List.map_append, List.map_cons, List.nodup_append] at h
  exact h.2.2 _ (List.mem_map_of_mem hq) _ List.mem_cons_self he

/-- A change of one tag's record that keeps its tag leaves the records of the other tags as they are. -/
theorem updateRecord_others (tag : Tag) (g : TrackRecord → TrackRecord) (hg : ∀ r, (g r).tag = r.tag) :
    (updateRecord tag g s).track.filter (fun x => x.tag != tag) = s.track.filter (fun x => x.tag != tag) := by
  rw [updateRecord_track]
  generalize s.track = l
  induction l with
  | nil => rfl
  | cons r l ih =>
    simp only [beq_iff_eq] at ih
    by_cases h : r.tag = tag <;> simp [h, hg, ih]

/-! ### Comparing claims (R13, R175) -/

/-- The station of a CLAIM is in the low four bits of its identifier (R175). -/
theorem heardOf_eq (f : Frame) : heardOf f = ⟨(wordAt f.payload 2).toNat, f.ident.toNat % 16⟩ := by
  simp [heardOf, claimStation, detailOf, Nat.mod_mod_of_dvd]

theorem beats_iff (a b : Heard) : a.beats b = true ↔ BetterClaim a b.score b.station := by
  simp [Heard.beats]

theorem beatsBest_iff (a : Heard) (best : Option Heard) :
    a.beatsBest best = true ↔ ∀ b, best = some b → BetterClaim a b.score b.station := by
  cases best <;> simp [Heard.beatsBest, beats_iff]

theorem beatsOwn_iff (c : Heard) (r : TrackRecord) :
    beatsOwn s c r = true ↔ ∃ o, r.bid = some o ∧ BetterClaim c o.score s.number := by
  cases h : r.bid <;> simp [beatsOwn, h, beats_iff]

/-- A CLAIM is heard by the track list without the frame (R5, R13). -/
theorem claim_heard {f : Frame} {rest : List Frame} (hrx : s.rxBuffer = f :: rest) (hk : kindOf f = 1) :
    claim s = hearClaim (wordAt f.payload 0) (heardOf f) { s with rxBuffer := rest } := by
  rw [claim, handOn_takes _ _ hrx (by simp [hk])]

/-- A claim for no record changes nothing (R13). -/
theorem hearClaim_unknown {tag : Tag} {c : Heard} (h : findRecord tag s = none) : hearClaim tag c s = s := by
  simp [hearClaim, h]

/-- A claim not better than best heard changes nothing (R13). -/
theorem hearClaim_worse {tag : Tag} {c b : Heard} {r : TrackRecord} (h : findRecord tag s = some r)
    (hb : r.best = some b) (hn : ¬ BetterClaim c b.score b.station) : hearClaim tag c s = s := by
  have hw : ¬ c.beatsBest r.best = true := fun hc => hn ((beatsBest_iff _ _).mp hc b hb)
  simp [hearClaim, h, hw]

/-- A better claim that does not beat the own bid of a QUEUED or SENT record only becomes best heard (R13). -/
theorem hearClaim_kept {tag : Tag} {c : Heard} {r : TrackRecord} (h : findRecord tag s = some r)
    (hb : ∀ b, r.best = some b → BetterClaim c b.score b.station)
    (ho : r.state = .queued ∨ r.state = .sent → ∀ o, r.bid = some o → ¬ BetterClaim c o.score s.number) :
    hearClaim tag c s = updateRecord tag (TrackRecord.hear c) s := by
  have hkept : ¬ (((r.state == .queued || r.state == .sent) && beatsOwn s c r) = true) := by
    simp only [Bool.and_eq_true, Bool.or_eq_true, beq_iff_eq, beatsOwn_iff]
    rintro ⟨hst, o, hbid, hbetter⟩
    exact ho hst o hbid hbetter
  unfold hearClaim
  simp only [h, (beatsBest_iff c r.best).mpr hb, if_true]
  rw [if_neg hkept]

/-- A claim that beats the own bid of a QUEUED or SENT record makes it lose (R28). -/
theorem hearClaim_loses {tag : Tag} {c : Heard} {r : TrackRecord} {o : OwnBid} (h : findRecord tag s = some r)
    (hb : ∀ b, r.best = some b → BetterClaim c b.score b.station) (hst : r.state = .queued ∨ r.state = .sent)
    (hbid : r.bid = some o) (ho : BetterClaim c o.score s.number) :
    hearClaim tag c s = loseClaim r (updateRecord tag (TrackRecord.hear c) s) := by
  have hlost : ((r.state == .queued || r.state == .sent) && beatsOwn s c r) = true := by
    simp only [Bool.and_eq_true, Bool.or_eq_true, beq_iff_eq, beatsOwn_iff]
    exact ⟨hst, o, hbid, ho⟩
  unfold hearClaim
  simp only [h, (beatsBest_iff c r.best).mpr hb, if_true]
  rw [if_pos hlost]

/-- A better claim becomes best heard (R13). -/
theorem hear_better {c : Heard} {r : TrackRecord} (hb : ∀ b, r.best = some b → BetterClaim c b.score b.station) :
    r.hear c = { r with best := some c } := by
  simp [TrackRecord.hear, (beatsBest_iff c r.best).mpr hb]

theorem hear_tag (c : Heard) (r : TrackRecord) : (r.hear c).tag = r.tag := by
  unfold TrackRecord.hear; split <;> rfl

/-! ### What a build and the station offer (R18, R21, R49, R50) -/

/-- What demand match and placement search find on a build is what it offers (R21, R49). -/
theorem buildCandidate_iff (s : State) (b : BuildId) (d : CaseDesc) (c : Candidate) :
    buildCandidate s b d = some c ↔ c.build = b ∧ OffersCandidate s d c := by
  unfold buildCandidate
  constructor
  · simp only
    split
    · next i o hmatch ho =>
      rw [Option.map_eq_some_iff]
      rintro ⟨found, hfound, rfl⟩
      obtain ⟨_, hend, l, hl, hart, hopen, hfirst⟩ := (demandMatch_iff _ _ _).mp hmatch
      refine ⟨rfl, o, l, reserveActive (s.build b), ho, hend, hl, hart, (openCount_pos l).mp hopen, ?_, ?_,
        reserveActive_iff _ _ ho, hfound⟩
      · intro j m hj hm ha
        have := (openCount_pos m).not.mp (hfirst j m hj hm ha)
        omega
      · simp [hl]
    · simp
  · rintro ⟨rfl, o, l, active, ho, hend, hl, hart, hopen, hfirst, hbase, hactive, hfound⟩
    have hmatch : demandMatch (s.build c.build) d.article = some c.line := by
      refine (demandMatch_iff _ _ _).mpr ⟨by simp [ho], hend, l, hl, hart, (openCount_pos l).mpr hopen, ?_⟩
      intro j m hj hm ha
      have := hfirst j m hj hm ha
      rw [openCount_pos]
      omega
    have hact : reserveActive (s.build c.build) = active :=
      Bool.eq_iff_iff.mpr ((reserveActive_iff _ _ ho).trans hactive.symm)
    have hb : (d.base || l.base) = c.base := by
      rw [Bool.eq_iff_iff, Bool.or_eq_true, hbase]
    simp only [hmatch, ho, hl, hact, Option.map_some, Option.getD_some, hb, hfound]

/-- An eligible build's candidate (R18, R21). -/
theorem eligibleCandidate_iff (s : State) (b : BuildId) (d : CaseDesc) (c : Candidate) :
    eligibleCandidate s b d = some c ↔ EligibleToBid s c.build ∧ OffersCandidate s d c ∧ c.build = b := by
  rw [eligibleCandidate, Option.ite_none_right_eq_some, buildCandidate_iff, eligible_iff]
  constructor
  · rintro ⟨he, rfl, hc⟩; exact ⟨he, hc, rfl⟩
  · rintro ⟨he, hc, rfl⟩; exact ⟨he, rfl, hc⟩

/-- The better of a candidate of build A and one of build B: the lower score, A at equal scores (R21). -/
theorem stationCandidate_iff (s : State) (d : CaseDesc) (c : Candidate) :
    stationCandidate s d = some c ↔ EligibleToBid s c.build ∧ OffersCandidate s d c ∧
      ∀ c', EligibleToBid s c'.build → OffersCandidate s d c' →
        c.found.score < c'.found.score ∨ c.found.score = c'.found.score ∧ (c.build = .A ∨ c'.build = .B) := by
  have hA (x : Candidate) (h : eligibleCandidate s .A d = some x) : x.build = .A :=
    ((eligibleCandidate_iff s .A d x).mp h).2.2
  have hB (x : Candidate) (h : eligibleCandidate s .B d = some x) : x.build = .B :=
    ((eligibleCandidate_iff s .B d x).mp h).2.2
  have hany (x : Candidate) : EligibleToBid s x.build ∧ OffersCandidate s d x ↔
      eligibleCandidate s .A d = some x ∨ eligibleCandidate s .B d = some x := by
    rw [eligibleCandidate_iff, eligibleCandidate_iff]
    cases x.build <;> simp
  rw [← and_assoc, hany]
  simp only [← and_imp, hany, stationCandidate]
  cases ha : eligibleCandidate s .A d <;> cases hb : eligibleCandidate s .B d <;> simp only [ha, hb] at hA hB ⊢
  · simp
  · simp only [reduceCtorEq, false_or, Option.some.injEq, forall_eq']
    grind
  · simp only [reduceCtorEq, or_false, Option.some.injEq, forall_eq']
    grind
  · split <;> grind

/-- A tag is planned when an entry of either plan list holds it (R19). -/
theorem tagPlanned_iff (tag : Tag) : tagPlanned tag s = true ↔ ∃ b, ∃ e ∈ (s.build b).plan, e.tag = tag := by
  simp only [tagPlanned, Bool.or_eq_true, List.any_eq_true, beq_iff_eq]
  constructor
  · rintro (h | h)
    · exact ⟨.A, h⟩
    · exact ⟨.B, h⟩
  · rintro ⟨b, h⟩
    cases b
    · exact .inl h
    · exact .inr h

/-! ### Evaluation and bid (R19, R22, R23) -/

/-- A candidate passes when it is better than best heard and, while THROTTLED, below THROTTLE_CUT (R22). -/
theorem wouldBid_iff (r : TrackRecord) (c : Candidate) :
    wouldBid s r c = true ↔
      (∀ b, r.best = some b → BetterClaim ⟨c.found.score, s.number⟩ b.score b.station) ∧
        (s.throttled = true → c.found.score < s.own2.throttleCut) := by
  cases h : s.throttled <;> simp [wouldBid, beatsBest_iff, h]

/-- A record may be evaluated while it is UNBID, before its deadline, and not planned (R19). -/
theorem evaluable_iff (r : TrackRecord) :
    evaluable s r = true ↔ r.state = .unbid ∧ r.deadlinePassed = false ∧ tagPlanned r.tag s = false := by
  simp [evaluable, and_assoc]

/-- A record whose candidate passes is bid (R19 to R23). -/
theorem evaluate_bids {r : TrackRecord} {c : Candidate} (he : evaluable s r = true)
    (hc : stationCandidate s r.desc = some c) (hb : wouldBid s r c = true) : evaluate r s = bid r c s := by
  simp [evaluate, he, hc, hb]

/-- A record that may not be bid, or has no candidate that passes, is left as it is (R19, R22). -/
theorem evaluate_keeps {r : TrackRecord}
    (h : evaluable s r = true → ∀ c, stationCandidate s r.desc = some c → wouldBid s r c = false) :
    evaluate r s = s := by
  unfold evaluate
  split
  · next he =>
    split
    · rfl
    · next c hc => rw [h he c hc]; rfl
  · rfl

/-- A notice that passes the checks, with a candidate that passes, is bid as it is appended (R11, R21 to R23). -/
theorem takeNotice_bids {p : List Byte} {c : Candidate} (hpass : noticeRefusal p s = none)
    (hahead : (noticeRecord p s).deadlinePassed = false) (hplan : tagPlanned (noticeRecord p s).tag s = false)
    (hc : stationCandidate s (noticeRecord p s).desc = some c)
    (hcut : s.throttled = true → c.found.score < s.own2.throttleCut) :
    takeNotice p s = bid (noticeRecord p s) c (appendRecord (noticeRecord p s) s) := by
  rw [takeNotice_accepted hpass]
  have happ := appendRecord_ahead (noticeRecord p s) s (noticeRefusal_none hpass).2 rfl
  apply evaluate_bids
  · rw [evaluable_iff, happ]
    exact ⟨rfl, hahead, hplan⟩
  · rw [happ]
    exact hc
  · rw [wouldBid_iff, happ]
    exact ⟨fun b hb => absurd hb (Option.some_ne_none b).symm, hcut⟩

/-- A bid's entry stands at the tail of the plan list, applied to the planned surface, with its line's planned count
risen (R23). -/
theorem addEntry_build (b : BuildId) (e : PlanEntry) :
    (addEntry b e s).build b = { s.build b with
      plan := (s.build b).plan ++ [e]
      planned := (s.build b).planned.apply e.foot e.h e.weight e.rating
      lines := (s.build b).lines.modify e.line (fun l => { l with planned := l.planned + 1 }) } :=
  updateBuild_build_same _ _ _

theorem addEntry_other (b c : BuildId) (e : PlanEntry) (h : c ≠ b) : (addEntry b e s).build c = s.build c :=
  updateBuild_build_other _ _ _ _ h

theorem bid_build (r : TrackRecord) (c : Candidate) (b : BuildId) :
    (bid r c s).build b = (addEntry c.build (entryFor r.tag r.desc c .contested) s).build b := by
  simp [bid]

theorem bid_txQueue (r : TrackRecord) (c : Candidate) :
    (bid r c s).txQueue = s.txQueue ++ [⟨.claim r.tag c.found.score c.build, false, false, true⟩] := by
  obtain ⟨b, _, _, _⟩ := c
  cases b <;> rfl

/-- A bid makes the record QUEUED with its own bid (R23). -/
theorem bid_record {r : TrackRecord} {c : Candidate} (h : findRecord r.tag s = some r) :
    findRecord r.tag (bid r c s) =
      some { r with state := .queued, bid := some ⟨c.build, c.found.score, true⟩ } := by
  have hq : findRecord r.tag (queueClaim r.tag c.found.score c.build
      (addEntry c.build (entryFor r.tag r.desc c .contested) s)) = some r := by
    simpa [findRecord, addEntry] using h
  refine (findRecord_updateRecord _ _ ?_).trans (by rw [hq]; rfl)
  exact fun _ => rfl

theorem bid_track_length (r : TrackRecord) (c : Candidate) : (bid r c s).track.length = s.track.length := by
  simp [bid, addEntry]

/-! ### Sweeps (R20) -/

/-- The sweep goes on behind the record offered; at the end of the list a pending sweep starts again (R20). -/
theorem advanceSweep_eq (i : Nat) (t : State) :
    advanceSweep i t = { t with
      sweep := if i < t.track.length then some i else if t.pendingSweep then some 0 else none
      pendingSweep := if i < t.track.length then t.pendingSweep else false } := by
  unfold advanceSweep endSweep
  split <;> rfl

theorem sweepOffer_offers {i : Nat} {r : TrackRecord} (hs : s.sweep = some i) (hr : s.track[i]? = some r) :
    sweepOffer s = advanceSweep (i + 1) (evaluate r s) := by
  simp [sweepOffer, hs, hr]

/-- The next record of the sweep is offered; after its evaluation the sweep goes on behind it (R20). -/
theorem sweepOffer_eq {i : Nat} {r : TrackRecord} (hs : s.sweep = some i) (hr : s.track[i]? = some r)
    (hl : (evaluate r s).track.length = s.track.length) (hp : (evaluate r s).pendingSweep = s.pendingSweep) :
    sweepOffer s = { evaluate r s with
      sweep := if i + 1 < s.track.length then some (i + 1) else if s.pendingSweep then some 0 else none
      pendingSweep := if i + 1 < s.track.length then s.pendingSweep else false } := by
  rw [sweepOffer_offers hs hr, advanceSweep_eq, hl, hp]

end Sys2Proof.Machine

open Sys2Proof Sys2Proof.Machine

/-- Settles O26, from the three rules of `hearClaim`. -/
theorem heardClaimsAreCompared : Obligations.HeardClaimsAreCompared := by
  refine ⟨fun s tag r => findRecord_iff tag r, ?_⟩
  intro s f rest tag c hrx hk htag hc
  rw [← heardOf_eq] at hc
  subst htag hc
  refine ⟨showBeacons (claim s), rfl, fun hnone => ?_, fun r b hr hb hn => ?_, fun r hr hb ho => ?_⟩
  · rw [claim_heard hrx hk, hearClaim_unknown (by exact hnone)]; rfl
  · rw [claim_heard hrx hk, hearClaim_worse (by exact hr) hb (by exact hn)]; rfl
  · have hheard : claim s =
        updateRecord (wordAt f.payload 0) (TrackRecord.hear (heardOf f)) { s with rxBuffer := rest } := by
      rw [claim_heard hrx hk]
      exact hearClaim_kept hr hb ho
    rw [hheard]
    refine ⟨?_, updateRecord_others _ _ (hear_tag _), rfl⟩
    have hfound := findRecord_updateRecord (s := { s with rxBuffer := rest }) (wordAt f.payload 0)
      (TrackRecord.hear (heardOf f)) (hear_tag _)
    have hr' : findRecord (wordAt f.payload 0) { s with rxBuffer := rest } = some r := hr
    rw [hr', Option.map_some, hear_better hb] at hfound
    exact hfound

/-- Settles O25: the notice passes its checks, and the record appended has a candidate that `wouldBid`. -/
theorem wantedNoticeIsBid : Obligations.WantedNoticeIsBid := by
  refine ⟨fun s d c => ⟨stationCandidate_iff s d c, fun b => buildCandidate_iff s b d c⟩,
    fun s tag => tagPlanned_iff tag, ?_⟩
  intro s f rest raw d tag c hrx hk hrun hraw hd htag ha1 ha2 hw1 hw2 hd1 hd2 hh hweight hnew hclose hroom hdeadline
    hplan hcand hcut
  obtain rfl : raw = noticeDesc f.payload := hraw
  subst htag
  obtain ⟨u, hu⟩ : ∃ u, u = { s with rxBuffer := rest } := ⟨_, rfl⟩
  obtain ⟨r, hr⟩ : ∃ r, r = noticeRecord f.payload u := ⟨_, rfl⟩
  have hpass : noticeRefusal f.payload u = none := by
    subst hu
    rw [noticeRefusal_eq, if_neg (not_not_intro ⟨ha1, ha2, hw1, hw2, hd1, hd2, hh, hweight⟩),
      if_neg (by rintro ⟨r, hr, ht⟩; exact hnew r hr ht), if_neg, if_neg (Nat.not_le.mpr hroom)]
    rw [hd] at hclose
    exact Nat.not_lt.mpr hclose
  have hahead : r.deadlinePassed = false := by
    rw [← Bool.not_eq_true]
    subst hr hu hd
    exact fun h => Nat.not_lt.mpr hdeadline ((reached_iff _ _).mp h)
  have hdesc : r.desc = d := by rw [hr, hd]; rfl
  have htag : r.tag = wordAt f.payload 0 := by rw [hr]; rfl
  have hunplanned : tagPlanned r.tag u = false := by
    rw [← Bool.not_eq_true, tagPlanned_iff, htag]
    rintro ⟨b, e, he, ht⟩
    have hub : u.build b = s.build b := by rw [hu]; exact build_congr rfl rfl b
    exact hplan b e (hub ▸ he) ht
  have hbid : takeNotice f.payload u = bid r c (appendRecord r u) := by
    rw [hr] at hahead hdesc hunplanned ⊢
    exact takeNotice_bids hpass hahead hunplanned (by rw [hdesc, hu]; exact hcand) (by rw [hu]; exact hcut)
  obtain ⟨hnone, hclose'⟩ := noticeRefusal_none hpass
  rw [← hr] at hnone hclose'
  have happ : appendRecord r u = _ := appendRecord_ahead r u hclose' (by rw [hr]; rfl)
  have hv (b : BuildId) : (appendRecord r u).build b = s.build b := by
    rw [happ, hu]
    exact build_congr rfl rfl b
  have hb (b : BuildId) : (showBeacons (bid r c (appendRecord r u))).build b =
      (addEntry c.build (entryFor r.tag r.desc c .contested) (appendRecord r u)).build b :=
    (build_congr rfl rfl b).trans (bid_build r c b)
  refine ⟨showBeacons (bid r c (appendRecord r u)),
    { r with state := .queued, bid := some ⟨c.build, c.found.score, true⟩ }, ?_, ?_, htag, hdesc, rfl, rfl, ?_,
    ⟨entryFor r.tag r.desc c .contested, htag, rfl, rfl, rfl, rfl, ?_, ?_, ?_, rfl, rfl, rfl, ?_⟩, fun b hne => ?_, ?_⟩
  · rw [exec_caseNotice_taken hrx hk (.inl hrun), ← hu, hbid]
  · rw [happ, hu]
    exact bid_track_tail r c rfl (by rwa [hu] at hnone)
  · rw [showBeacons_txQueue, bid_txQueue, htag, happ, hu]
  · rw [← hdesc]; rfl
  · rw [← hdesc]; rfl
  · rw [← hdesc]; rfl
  · rw [hb, addEntry_build, hv]
  · rw [hb, addEntry_other _ _ _ hne, hv]
  · rw [bid_eq, happ, hu]
    rfl

/-- Settles O28: `evaluate_keeps` or `evaluate_bids`, and `sweepOffer_eq`. -/
theorem sweepOffersTheNextRecord : Obligations.SweepOffersTheNextRecord := by
  intro s i r hs hr
  have hlen : (evaluate r s).track.length = s.track.length := by
    rcases evaluate_cases r s with h | ⟨_, c, h⟩
    · rw [h]
    · rw [h, bid_track_length]
  have hpend : (evaluate r s).pendingSweep = s.pendingSweep := by
    rcases evaluate_cases r s with h | ⟨_, c, h⟩
    · rw [h]
    · rw [h, bid_eq]
  have hoffer := sweepOffer_eq hs hr hlen hpend
  refine ⟨showBeacons (sweepOffer s), rfl, by rw [hoffer]; rfl, by rw [hoffer]; rfl, fun hkeep => ?_, ?_⟩
  · rw [hoffer, evaluate_keeps]
    · rfl
    · intro he c hc
      obtain ⟨h1, h2, h3⟩ := (evaluable_iff r).mp he
      rw [← Bool.not_eq_true, wouldBid_iff]
      rintro ⟨hbest, hcut⟩
      rcases hkeep with h | h | h | h | ⟨c', hc', ⟨b, hb, hn⟩ | ⟨ht, hle⟩⟩
      · exact h h1
      · simp [h2] at h
      · simp [h3] at h
      · simp [h] at hc
      · cases hc.symm.trans hc'
        exact hn (hbest b hb)
      · cases hc.symm.trans hc'
        exact absurd (hcut ht) (Nat.not_lt.mpr hle)
  · intro c h1 h2 h3 hc hd hbest hcut
    have hbid : evaluate r s = bid r c s :=
      evaluate_bids ((evaluable_iff r).mpr ⟨h1, h2, h3⟩) hc ((wouldBid_iff r c).mpr ⟨hbest, hcut⟩)
    have hfound : findRecord r.tag s = some r := findRecord_of_mem hd (List.mem_of_getElem? hr)
    have hbuild (b : BuildId) : (showBeacons (sweepOffer s)).build b = (bid r c s).build b := by
      rw [hoffer, hbid]
      exact build_congr rfl rfl b
    simp only [hbuild, bid_build]
    rw [hoffer, hbid]
    refine ⟨bid_record hfound, bid_txQueue r c, ⟨entryFor r.tag r.desc c .contested, ?_, rfl, rfl⟩, fun b hb => addEntry_other _ _ _ hb, ?_⟩
    · rw [addEntry_build]
      exact List.mem_append_right _ List.mem_cons_self
    · rw [bid_eq]
      rfl
end

section
/-!
What the station sends (chapter 12): the bytes of every frame (R176), and the frame that is sent next (R24). O32 is
assembled from these.
-/
namespace Sys2Proof.Machine

variable {s : State}

/-! ### Fields of flags and maps (12 sections 12.3 and 12.4) -/

/-- A map word carries one bit for each tile, tile t in bit t (12 section 12.3). -/
theorem bits_of_foldr (l : List Bool) :
    l.foldr (fun (b : Bool) n => 2 * n + b.toNat) 0 < 2 ^ l.length ∧
      ∀ j, (l.foldr (fun (b : Bool) n => 2 * n + b.toNat) 0).testBit j = l[j]?.getD false := by
  induction l with
  | nil => simp
  | cons b l ih =>
    obtain ⟨hlt, hbit⟩ := ih
    rw [List.foldr_cons]
    generalize l.foldr (fun (b : Bool) n => 2 * n + b.toNat) 0 = n at hlt hbit ⊢
    refine ⟨?_, fun j => ?_⟩
    · rw [List.length_cons, Nat.pow_succ]
      have := Bool.toNat_le b
      omega
    · cases j with
      | zero => cases b <;> simp [Nat.testBit_zero]
      | succ j =>
        have hhalf : (2 * n + b.toNat) / 2 = n := by
          have := Bool.toNat_le b
          omega
        rw [Nat.testBit_succ, hhalf, hbit]
        rfl

theorem mapWord_lt (m : Tiles Bool) : mapWord m < 2 ^ 24 := by
  have := (bits_of_foldr m.toList).1
  rwa [Vector.length_toList] at this

theorem mapWord_testBit (m : Tiles Bool) (j : Fin 24) : (mapWord m).testBit j.val = m[j] := by
  have := (bits_of_foldr m.toList).2 j.val
  simpa [mapWord] using this

theorem FaultRecord.flags_eq (r : FaultRecord) :
    r.flags = BitVec.ofNat 8 (r.valid.toNat + 2 * r.overflow.toNat + (if r.severity = .stop then 4 else 0) +
      8 * r.tag.isSome.toNat) := by
  have hstop : (r.severity == .stop).toNat = if r.severity = .stop then 1 else 0 := by
    cases r.severity <;> rfl
  simp only [FaultRecord.flags, flagByte, List.foldr, hstop]
  congr 1
  split <;> omega

theorem takenFlags_eq (a b c : Bool) : takenFlags a b c = BitVec.ofNat 8 (a.toNat + 2 * b.toNat + 4 * c.toNat) := by
  simp only [takenFlags, flagByte, List.foldr]
  congr 1
  omega

theorem Status1.flags_eq (r : Status1) :
    r.flags = BitVec.ofNat 8 (r.lineTaken.toNat + 2 * r.setup1Taken.toNat + 4 * r.setup2Taken.toNat +
      8 * r.throttled.toNat + 16 * r.throttleSeen.toNat + 32 * r.robotReady.toNat) := by
  simp only [Status1.flags, flagByte, List.foldr]
  congr 1
  omega

theorem Status1.scanSwap_eq (r : Status1) :
    r.scanSwap = BitVec.ofNat 8 (r.scanA.due.toNat + 2 * r.scanA.inFlight.toNat + 4 * r.scanB.due.toNat +
      8 * r.scanB.inFlight.toNat + 16 * r.swapA.due.toNat + 32 * r.swapA.inFlight.toNat + 64 * r.swapB.due.toNat +
      128 * r.swapB.inFlight.toNat) := by
  simp only [Status1.scanSwap, flagByte, List.foldr]
  congr 1
  omega

theorem buildCode_eq (b : Option BuildId) : buildCode b = (b.map BuildId.code).getD 255 := by cases b <;> rfl

theorem operationByte_eq (o : Option (OpKind × BuildId)) :
    operationByte o = ((o.map Prod.fst).map (fun k => 16 * k.code)).getD 15 +
      (o.map (fun x => x.2.code)).getD 0 := by
  cases o <;> rfl

/-- A payload goes on the line at the next size that it accepts (R176). -/
theorem frame_padded (n : Nat) (b : TxBody) :
    ∃ k, b.frame n = ⟨BitVec.ofNat 11 (b.identNat n), b.payload n ++ List.replicate k 0⟩ ∧
      ((b.payload n).length ≤ 8 → k = 0) ∧
      (9 ≤ (b.payload n).length → (b.payload n).length ≤ 12 → (b.payload n).length + k = 12) ∧
      (13 ≤ (b.payload n).length → (b.payload n).length ≤ 16 → (b.payload n).length + k = 16) := by
  refine ⟨paddedSize (b.payload n).length - (b.payload n).length, rfl, ?_, ?_, ?_⟩ <;>
    · unfold paddedSize
      split_ifs <;> omega

/-! ### The frame that is sent next (R24) -/

/-- The place that is found holds the lowest identifier, the earliest among equals (R24). -/
theorem lowestHeld_spec (n : Nat) (q : List TxFrame) (hq : q ≠ []) :
    ∃ before f after, q = before ++ f :: after ∧ lowestHeld n q = some before.length ∧
      (∀ g ∈ before, f.body.identNat n < g.body.identNat n) ∧
      ∀ g ∈ after, f.body.identNat n ≤ g.body.identNat n := by
  induction q with
  | nil => exact absurd rfl hq
  | cons g rest ih =>
    by_cases hrest : rest = []
    · subst hrest
      exact ⟨[], g, [], rfl, rfl, by simp, by simp⟩
    · obtain ⟨before, f, after, rfl, hl, hbefore, hafter⟩ := ih hrest
      have hget : (before ++ f :: after)[before.length]? = some f := by simp
      by_cases hlt : f.body.identNat n < g.body.identNat n
      · refine ⟨g :: before, f, after, rfl, ?_, ?_, hafter⟩
        · simp only [lowestHeld, hl, hget, hlt, if_true, List.length_cons]
        · simpa [hlt] using hbefore
      · refine ⟨[], g, before ++ f :: after, rfl, ?_, by simp, ?_⟩
        · simp only [lowestHeld, hl, hget, hlt, if_false, List.length_nil]
        · have := Nat.not_lt.mp hlt
          intro x hx
          rcases List.mem_append.mp hx with hx | hx
          · have := hbefore x hx; omega
          · rcases List.mem_cons.mp hx with rfl | hx
            · exact this
            · have := hafter x hx; omega

/-- A lost arbitration, a SILENT station, an empty queue and a frame on the line start no transmission (R24, R163). -/
theorem arbitration_idle {won : Bool} (h : won = false ∨ s.station = .silent ∨ s.txQueue = [] ∨
    ∃ f ∈ s.txQueue, f.inTransmission = true) : arbitration won s = s := by
  rcases h with h | h | h | ⟨f, hf, ht⟩
  · simp [arbitration, h]
  · simp [arbitration, h]
  · simp [arbitration, h, lowestHeld]
  · have : onLine s ≠ none := fun hn => by simp [onLine_none.mp hn f hf] at ht
    simp [arbitration, this]

/-- On a free line a won arbitration starts the transmission of the frame found (R24). -/
theorem arbitration_starts {i : Nat} (hs : s.station ≠ .silent) (hfree : ∀ f ∈ s.txQueue, f.inTransmission = false)
    (hi : lowestHeld s.number s.txQueue = some i) : arbitration true s = startTransmission i s := by
  simp [arbitration, hs, onLine_none.mpr hfree, hi]

/-- A change at the place behind a part of a list changes the element there alone. -/
theorem modify_at_length {α : Type} (g : α → α) (older newer : List α) (a : α) :
    (older ++ a :: newer).modify older.length g = older ++ g a :: newer := by
  induction older with
  | nil => rfl
  | cons x older ih => simpa [List.modify_succ_cons] using ih

/-- The frame at a place of the queue is in transmission, and is the one on the line (R24, R25). -/
theorem startTransmission_eq {before after : List TxFrame} {f : TxFrame} (h : s.txQueue = before ++ f :: after) :
    startTransmission before.length s = { s with
      txQueue := before ++ { f with inTransmission := true } :: after
      ctx := some (f.body.frame s.number)
      ownSent := some (f.body.frame s.number) } := by
  have hget : s.txQueue[before.length]? = some f := by simp [h]
  rw [startTransmission, hget, h, modify_at_length]
  rfl

end Sys2Proof.Machine

open Sys2Proof Sys2Proof.Machine

/-- Settles O32: the bytes by the equation of each field, the choice by `lowestHeld_spec`. -/
theorem lowestIdentifierIsSent : Obligations.LowestIdentifierIsSent := by
  refine ⟨frame_padded, ?_, ?_⟩
  · intro n b1 w2 w4 bld flags h1 h2 h4 hA hB hflags
    obtain rfl : b1 = byte1 := funext h1
    obtain rfl : w2 = bytes2 := funext h2
    obtain rfl : w4 = bytes4 := funext h4
    obtain rfl : bld = BuildId.code := by
      funext b
      cases b
      · exact hA
      · exact hB
    have hstate (st : BuildState) (i : Nat) (h : (st, i) ∈ [(BuildState.unused, 0), (.empty, 1), (.loading, 2),
        (.opened, 3), (.held, 4), (.closing, 5), (.swapping, 6)]) : i = st.code := by
      cases st <;> simpa [BuildState.code] using h
    have hstate' (st : BuildState) : (st, st.code) ∈ [(BuildState.unused, 0), (.empty, 1), (.loading, 2),
        (.opened, 3), (.held, 4), (.closing, 5), (.swapping, 6)] := by
      cases st <;> decide
    have hfault (r : FaultRecord) : byte1 (flags r) = [r.flags] := by
      rw [hflags, r.flags_eq]; rfl
    refine ⟨fun _ _ _ => ⟨rfl, rfl⟩, ?_, ?_, fun _ _ _ _ _ => ⟨rfl, rfl⟩, ?_, ?_, ?_, fun _ => ⟨rfl, rfl⟩, ?_,
      fun _ _ => ⟨rfl, rfl⟩⟩
    · intro tag r i h
      obtain rfl : i = r.code := by cases r <;> simpa [MissReason.code] using h
      exact ⟨rfl, rfl⟩
    · intro kind code b r i next h
      obtain rfl : i = r.code := by cases r <;> simpa [ReplyCode.code] using h
      exact ⟨rfl, by rw [← buildCode_eq]; rfl⟩
    · intro r i h
      obtain rfl := hstate _ _ h
      exact ⟨rfl, mapWord r.mismatch, mapWord_lt _, mapWord_testBit _, rfl⟩
    · intro r i h
      obtain rfl : i = causeCode r.cause := by
        rcases hc : r.cause with _ | c
        · simpa [hc, causeCode] using h
        · cases c <;> simpa [hc, causeCode] using h
      exact ⟨rfl, by rw [← buildCode_eq, hfault]; rfl⟩
    · intro r i op hst hop
      obtain rfl : i = r.station.code := by cases hc : r.station <;> simp [hc, StationState.code] at hst ⊢ <;> exact hst
      have hop' : op = ((r.operation.map Prod.fst).map (fun k => 16 * k.code)).getD 15 := by
        rcases hc : r.operation.map Prod.fst with _ | k
        · simpa [hc] using hop
        · cases k <;> simpa [hc, OpKind.code] using hop
      refine ⟨rfl, r.stateA.code, r.stateB.code, hstate' _, hstate' _, ?_⟩
      rw [hop', ← operationByte_eq, hfault]
      simp only [TxBody.payload, Status1.payload, r.flags_eq, r.scanSwap_eq]
      rfl
    · intro a b c
      refine ⟨rfl, ?_⟩
      simp only [TxBody.payload, takenFlags_eq]
      rfl
  · intro s won
    refine ⟨showBeacons (arbitration won s), rfl, fun h => by rw [arbitration_idle h]; rfl, fun hwon hs hq hfree => ?_⟩
    subst hwon
    obtain ⟨before, f, after, hsplit, hi, hbefore, hafter⟩ := lowestHeld_spec s.number s.txQueue hq
    refine ⟨before, f, after, hsplit, hbefore, hafter, ?_⟩
    rw [arbitration_starts hs hfree hi, startTransmission_eq hsplit]
    rfl
end

section
/-!
Runs of removals (R86, R87): what becomes of the plan list, the pick order list, the records and the transmit queue when
entries of one build are withdrawn or dropped one by one, said once for a cancel, a release and a recomputation.
-/
namespace Sys2Proof.Machine

variable {b : BuildId} {s t u : State}

/-- A removal: a withdrawal with its reason, or an uncertain entry that a release drops without a MISS (R59, R86). -/
inductive Removal where
  | withdrawn (m : MissReason) (e : PlanEntry)
  | dropped (e : PlanEntry)

/-- The entry that a removal takes out. -/
def Removal.entry : Removal → PlanEntry
  | .withdrawn _ e => e
  | .dropped e => e

/-- What a removal does. -/
def Removal.run (b : BuildId) : Removal → State → State
  | .withdrawn m e => withdrawEntry b m e
  | .dropped e => dropEntry b e

/-- The entries of the removals l have been removed from build b on the way from s to t, in this order; between them the
planned surface may have been written. -/
inductive Removes (b : BuildId) : State → List Removal → State → Prop
  | refl (s : State) : Removes b s [] s
  | replan {s t : State} {l : List Removal} (f : Build → Surface) (h : Removes b s l t) :
      Removes b s l (updateBuild b (fun x => { x with planned := f x }) t)
  | remove {s t : State} {l : List Removal} (r : Removal) (h : Removes b s l t) : Removes b s (l ++ [r]) (r.run b t)

theorem Removes.trans {l k : List Removal} (h : Removes b s l t) (j : Removes b t k u) : Removes b s (l ++ k) u := by
  induction j with
  | refl => simpa using h
  | replan f _ ih => exact ih.replan f
  | remove r _ ih =>
    rw [← List.append_assoc]
    exact ih.remove r

theorem Removal.removes (r : Removal) : Removes b s [r] (r.run b s) := .remove r (.refl s)

/-- A fold of removals is a run of them. -/
theorem foldl_removes {α : Type} (r : α → Removal) (l : List α) (s : State) :
    Removes b s (l.map r) (l.foldl (fun t a => (r a).run b t) s) := by
  induction l generalizing s with
  | nil => exact .refl s
  | cons a l ih => exact (r a).removes.trans (ih _)

theorem Removal.withdraws (r : Removal) : Withdraws b s (r.run b s) := by
  cases r with
  | withdrawn m e => exact withdrawEntry_withdraws m e
  | dropped e => exact dropEntry_withdraws e

theorem Removes.withdraws {l : List Removal} (h : Removes b s l t) : Withdraws b s t := by
  induction h with
  | refl => exact .refl b _
  | replan f _ ih => exact ih.trans (updateBuild_withdraws _ fun _ => ⟨rfl, .refl _, rfl⟩)
  | remove r _ ih => exact ih.trans r.withdraws

/-! ### The plan list and its lines (R48, R86) -/

/-- A record moves without a change of any build. -/
theorem unbackRecord_build (tag : Tag) (c : BuildId) : (unbackRecord tag s).build c = s.build c := by
  unfold unbackRecord
  repeat' split
  all_goals simp

theorem takeOut_build (e : PlanEntry) :
    (takeOut b e s).build b = { s.build b with
      plan := (s.build b).plan.filter (fun p => !(p.tag == e.tag))
      lines := (s.build b).lines.modify e.line DemandLine.unplan } := by
  rw [takeOut, triggerSweep_build, updateBuild_build_same]

/-- A removal takes the entry's tag out of the plan list, and its line's planned count falls (R86). -/
theorem Removal.run_build (r : Removal) :
    (r.run b s).build b = { s.build b with
      plan := (s.build b).plan.filter (fun p => !(p.tag == r.entry.tag))
      lines := (s.build b).lines.modify r.entry.line DemandLine.unplan } := by
  cases r with
  | withdrawn m e =>
    simp only [Removal.run, Removal.entry, withdrawEntry]
    cases e.state <;> simp only [unbackRecord_build, offer_build, leavePick_build] <;> exact takeOut_build e
  | dropped e =>
    simp only [Removal.run, Removal.entry, dropEntry, leavePick_build]
    exact takeOut_build e

/-- A run of removals takes out the tags of its entries, and their lines' planned counts fall (R86). -/
theorem Removes.build {l : List Removal} (h : Removes b s l t) :
    t.build b = { s.build b with
      planned := (t.build b).planned
      plan := (s.build b).plan.filter (fun p => decide (∀ r ∈ l, p.tag ≠ r.entry.tag))
      lines := l.foldl (fun ls r => ls.modify r.entry.line DemandLine.unplan) (s.build b).lines } := by
  induction h with
  | refl => simp
  | replan f _ ih => rw [updateBuild_build_same, ih]
  | remove r _ ih =>
    rw [Removal.run_build, ih]
    simp only [List.filter_filter, List.foldl_append, List.foldl_cons, List.foldl_nil]
    congr 1
    apply List.filter_congr
    intro p _
    rw [Bool.eq_iff_iff]
    simp only [Bool.and_eq_true, Bool.not_eq_true', beq_eq_false_iff_ne, decide_eq_true_eq, List.mem_append,
      List.mem_singleton]
    grind

/-- The plan list after a run of removals. -/
theorem Removes.mem_plan {l : List Removal} (h : Removes b s l t) (e : PlanEntry) :
    e ∈ (t.build b).plan ↔ e ∈ (s.build b).plan ∧ ∀ r ∈ l, e.tag ≠ r.entry.tag := by
  rw [h.build]
  simp

/-- A run that removes nothing writes no more than the build's planned surface. -/
theorem Removes.nothing {l : List Removal} (h : Removes b s l t) (hl : l = []) :
    t = { s with buildA := t.buildA, buildB := t.buildB } := by
  induction h with
  | refl => rfl
  | replan f _ ih =>
    have := ih hl
    cases b <;>
    · conv_lhs => rw [this]
      rfl
  | remove r _ _ => simp at hl

/-! ### One removal in a run -/

/-- A run passes through each of its removals. -/
theorem Removes.split {l k : List Removal} {r : Removal} (h : Removes b s (l ++ r :: k) t) :
    ∃ v, Removes b s l v ∧ Removes b (r.run b v) k t := by
  generalize hm : l ++ r :: k = m at h
  induction h generalizing k with
  | refl => simp at hm
  | replan f _ ih =>
    obtain ⟨v, hv, hk⟩ := ih hm
    exact ⟨v, hv, hk.replan f⟩
  | remove r' h ih =>
    rcases List.eq_nil_or_concat k with rfl | ⟨k', x, rfl⟩
    · obtain ⟨rfl, hr⟩ := List.append_inj' hm rfl
      cases hr
      exact ⟨_, h, .refl _⟩
    · rw [List.concat_eq_append, ← List.cons_append, ← List.append_assoc] at hm
      obtain ⟨hl, hx⟩ := List.append_inj' hm rfl
      cases hx
      obtain ⟨v, hv, hk⟩ := ih hl
      refine ⟨v, hv, ?_⟩
      rw [List.concat_eq_append]
      exact hk.remove _

/-- The case of a WON or PLACING entry that is removed has no pick entry any more (R86). -/
theorem Removal.run_not_picked (r : Removal) (h : r.entry.state ≠ .contested) :
    ∀ p ∈ (r.run b s).pick, p.tag ≠ r.entry.tag := by
  cases r with
  | withdrawn m e =>
    simp only [Removal.run, Removal.entry, withdrawEntry] at h ⊢
    cases he : e.state
    · exact absurd he h
    · exact leavePick_not_picked e.tag
    · exact leavePick_not_picked e.tag
  | dropped e => exact leavePick_not_picked e.tag

theorem Removes.not_picked {l : List Removal} (h : Removes b s l t) {r : Removal} (hr : r ∈ l)
    (he : r.entry.state ≠ .contested) : ∀ p ∈ t.pick, p.tag ≠ r.entry.tag := by
  obtain ⟨a, k, rfl⟩ := List.append_of_mem hr
  obtain ⟨v, _, hk⟩ := h.split
  exact hk.withdraws.not_picked _ (r.run_not_picked he)

/-- A removal triggers a sweep (R20). -/
theorem Removal.run_sweep (r : Removal) : (r.run b s).sweep.isSome = true := by
  cases r with
  | withdrawn m e =>
    simp only [Removal.run, withdrawEntry]
    cases e.state
    · exact (unbackRecord_withdraws (b := b) e.tag).sweep (takeOut_sweep e)
    · exact ((leavePick_withdraws (b := b) e.tag).trans (offer_withdraws _ rfl)).sweep (takeOut_sweep e)
    · exact ((leavePick_withdraws (b := b) e.tag).trans (offer_withdraws _ rfl)).sweep (takeOut_sweep e)
  | dropped e => exact (leavePick_withdraws (b := b) e.tag).sweep (takeOut_sweep e)

theorem Removes.sweep {l : List Removal} (h : Removes b s l t) (hl : l ≠ []) : t.sweep.isSome = true := by
  obtain ⟨r, k, rfl⟩ := List.exists_cons_of_ne_nil hl
  obtain ⟨v, _, hk⟩ := h.split (l := [])
  exact hk.withdraws.sweep r.run_sweep

/-! ### What a removal leaves of another tag -/

/-- The record of a tag and its own claims are the same in two states. -/
def Spares (tag : Tag) (s t : State) : Prop :=
  findRecord tag t = findRecord tag s ∧
    t.txQueue.filter (fun f => f.isOwnClaim tag) = s.txQueue.filter (fun f => f.isOwnClaim tag)

theorem Spares.refl (tag : Tag) (s : State) : Spares tag s s := ⟨rfl, rfl⟩

theorem Spares.trans {tag : Tag} (h : Spares tag s t) (k : Spares tag t u) : Spares tag s u :=
  ⟨k.1.trans h.1, k.2.trans h.2⟩

/-- An operation that writes neither the track list nor the transmit queue spares every tag. -/
theorem spares_of_eq (tag : Tag) (ht : t.track = s.track) (hq : t.txQueue = s.txQueue) : Spares tag s t := by
  rw [Spares, findRecord, ht, hq]
  exact ⟨rfl, rfl⟩

theorem Spares.claimInTransmission {tag : Tag} (h : Spares tag s t) :
    claimInTransmission tag t = claimInTransmission tag s := by
  have hany (q : List TxFrame) : q.any (fun f => f.isOwnClaim tag && f.inTransmission) =
      (q.filter fun f => f.isOwnClaim tag).any fun f => f.inTransmission := by
    rw [List.any_filter]
  rw [Machine.claimInTransmission, Machine.claimInTransmission, hany, hany, h.2]

theorem Spares.own {tag : Tag} (h : Spares tag s t) {g : TxFrame} (hg : g.isOwnClaim tag = true) :
    g ∈ t.txQueue ↔ g ∈ s.txQueue := by
  have := congrArg (g ∈ ·) h.2
  simpa [List.mem_filter, hg] using this

/-- A frame is the own claim of one tag at most. -/
theorem isOwnClaim_other {tag tag' : Tag} {f : TxFrame} (h : f.isOwnClaim tag = true) (hn : tag ≠ tag') :
    f.isOwnClaim tag' = false := by
  unfold TxFrame.isOwnClaim at h ⊢
  split at h <;> grind

/-- What an abort of a tag's claim makes of a queued frame: an own claim that waits goes, one in transmission is not
offered again (R27). -/
def abortFrame (tag : Tag) (f : TxFrame) : Option TxFrame :=
  if f.isOwnClaim tag then (if f.inTransmission then some { f with noRetry := true } else none) else some f

theorem abortClaim_txQueue (tag : Tag) : (abortClaim tag s).txQueue = s.txQueue.filterMap (abortFrame tag) := by
  rw [abortClaim]
  generalize s.txQueue = q
  induction q with
  | nil => rfl
  | cons f q ih =>
    rw [List.filterMap_cons, ← ih, abortFrame]
    by_cases ho : f.isOwnClaim tag = true <;> by_cases ht : f.inTransmission = true <;> simp [ho, ht]

/-- What an abort leaves of a frame keeps what it carries and whether it is in transmission. -/
theorem abortFrame_some {tag : Tag} {f g : TxFrame} (h : abortFrame tag f = some g) :
    g = { f with noRetry := g.noRetry } ∧ (g.isOwnClaim tag = true → g.inTransmission = true ∧ g.noRetry = true) := by
  unfold abortFrame at h
  split at h
  · next ho =>
    split at h
    · next ht => cases h; exact ⟨rfl, fun _ => ⟨ht, rfl⟩⟩
    · cases h
  · next ho => cases h; exact ⟨rfl, fun h => absurd h ho⟩

theorem abortFrame_other {tag : Tag} {f : TxFrame} (h : f.isOwnClaim tag = false) : abortFrame tag f = some f := by
  simp [abortFrame, h]

/-- Where a tag's claims pass through as they are and no frame becomes one, the tag's claims stay as they are. -/
theorem filter_filterMap_own {tag : Tag} (q : List TxFrame) (F : TxFrame → Option TxFrame)
    (hown : ∀ f, f.isOwnClaim tag = true → F f = some f)
    (hnew : ∀ f g, F f = some g → g.isOwnClaim tag = true → f.isOwnClaim tag = true) :
    (q.filterMap F).filter (fun f => f.isOwnClaim tag) = q.filter (fun f => f.isOwnClaim tag) := by
  induction q with
  | nil => rfl
  | cons f q ih =>
    by_cases hf : f.isOwnClaim tag = true
    · simp [hown f hf, hf, ih]
    · cases hF : F f with
      | none => simp [hF, hf, ih]
      | some g =>
        have hg : ¬ g.isOwnClaim tag = true := fun h => hf (hnew f g hF h)
        simp [hF, hf, hg, ih]

theorem abortClaim_spares {tag tag' : Tag} (hn : tag' ≠ tag) : Spares tag' s (abortClaim tag s) := by
  refine ⟨rfl, ?_⟩
  rw [abortClaim_txQueue]
  apply filter_filterMap_own
  · exact fun f hf => abortFrame_other (isOwnClaim_other hf hn)
  · intro f g h hg
    rw [(abortFrame_some h).1] at hg
    exact hg

theorem updateRecord_spares {tag tag' : Tag} (g : TrackRecord → TrackRecord) (hg : ∀ r, (g r).tag = r.tag)
    (hn : tag' ≠ tag) : Spares tag' s (updateRecord tag g s) :=
  ⟨findRecord_updateRecord_other _ _ _ hg hn, by rw [updateRecord_txQueue]⟩

theorem offer_spares (body : TxBody) (tag : Tag) (h : (TxFrame.fresh body).isClaim = false) :
    Spares tag s (offer body s) := by
  have ho : (TxFrame.fresh body).isOwnClaim tag = false := by
    unfold TxFrame.isClaim at h
    unfold TxFrame.isOwnClaim
    split <;> simp_all
  refine ⟨by simp [findRecord], ?_⟩
  simp only [offer]
  split
  · rfl
  · simp [ho]

theorem takeOut_spares (e : PlanEntry) (tag : Tag) : Spares tag s (takeOut b e s) :=
  spares_of_eq tag (by simp [takeOut]) (by simp [takeOut])

theorem unbackRecord_spares {tag tag' : Tag} (hn : tag' ≠ tag) : Spares tag' s (unbackRecord tag s) := by
  unfold unbackRecord
  split
  · exact .refl _ _
  · split
    · exact updateRecord_spares _ (fun _ => rfl) hn
    · split
      · refine (updateRecord_spares _ ?_ hn).trans (abortClaim_spares hn)
        exact fun _ => rfl
      · exact (abortClaim_spares hn).trans (updateRecord_spares _ (fun _ => rfl) hn)
    all_goals exact .refl _ _

theorem Removal.run_spares (r : Removal) {tag : Tag} (hn : tag ≠ r.entry.tag) : Spares tag s (r.run b s) := by
  have hleave (e : PlanEntry) (v : State) : Spares tag v (leavePick e.tag v) := spares_of_eq tag (by simp) (by simp)
  cases r with
  | withdrawn m e =>
    simp only [Removal.run, withdrawEntry]
    cases e.state
    · exact (takeOut_spares e tag).trans (unbackRecord_spares hn)
    · exact ((takeOut_spares e tag).trans (hleave e _)).trans (offer_spares _ _ rfl)
    · exact ((takeOut_spares e tag).trans (hleave e _)).trans (offer_spares _ _ rfl)
  | dropped e => exact (takeOut_spares e tag).trans (hleave e _)

theorem Removes.spares {l : List Removal} (h : Removes b s l t) {tag : Tag} (hn : ∀ r ∈ l, tag ≠ r.entry.tag) :
    Spares tag s t := by
  induction h with
  | refl => exact .refl _ _
  | replan f _ ih => exact (ih hn).trans (spares_of_eq tag (by simp) (by simp))
  | remove r _ ih =>
    exact (ih fun x hx => hn x (List.mem_append_left _ hx)).trans (r.run_spares (hn r (by simp)))

/-! ### The record of a withdrawn CONTESTED entry (R30) -/

theorem LosesEntry.congr {tag : Tag} {s' t' : State} (h : LosesEntry s t tag) (hs : Spares tag s' s)
    (ht : Spares tag t t') : LosesEntry s' t' tag := by
  intro r unbacked hr hu
  rw [← hs.1] at hr
  obtain ⟨h1, h2, h3⟩ := h r unbacked hr hu
  rw [← hs.claimInTransmission, ht.claimInTransmission, ht.1]
  refine ⟨h1, fun hq hc => ⟨(h2 hq hc).1, fun g hg => ?_⟩, fun hq hc => ⟨(h3 hq hc).1, (h3 hq hc).2.1, fun g hg ho => ?_⟩⟩
  · by_contra ho
    rw [Bool.not_eq_false] at ho
    rw [(h2 hq hc).2 g ((ht.own ho).mp hg)] at ho
    exact Bool.false_ne_true ho
  · exact (h3 hq hc).2.2 g ((ht.own ho).mp hg) ho

/-- With no own claim in transmission an abort leaves none (R27). -/
theorem abortClaim_none {tag : Tag} (h : claimInTransmission tag s = false) :
    ∀ g ∈ (abortClaim tag s).txQueue, g.isOwnClaim tag = false := by
  intro g hg
  by_contra ho
  rw [Bool.not_eq_false] at ho
  rw [abortClaim_txQueue, List.mem_filterMap] at hg
  obtain ⟨f, hf, hfg⟩ := hg
  obtain ⟨hkeep, hmark⟩ := abortFrame_some hfg
  have hc : claimInTransmission tag s = true := by
    rw [claimInTransmission, List.any_eq_true]
    refine ⟨f, hf, ?_⟩
    have hin := (hmark ho).1
    rw [hkeep] at ho hin
    rw [Bool.and_eq_true]
    exact ⟨ho, hin⟩
  simp [h] at hc

/-- An own claim in transmission goes on through an abort (R27). -/
theorem claimInTransmission_abortClaim (tag : Tag) :
    claimInTransmission tag (abortClaim tag s) = claimInTransmission tag s := by
  rw [claimInTransmission, claimInTransmission, abortClaim_txQueue]
  generalize s.txQueue = q
  induction q with
  | nil => rfl
  | cons f q ih =>
    have hmark : TxFrame.isOwnClaim tag { f with noRetry := true } = f.isOwnClaim tag := rfl
    rw [List.filterMap_cons, abortFrame]
    by_cases ho : f.isOwnClaim tag = true
    · by_cases ht : f.inTransmission = true
      · rw [if_pos ho, if_pos ht]
        simp only [List.any_cons, hmark, ih]
      · simp [ho, ht, ih]
    · simp [ho, ih]

theorem unbackRecord_loses (tag : Tag) : LosesEntry s (unbackRecord tag s) tag := by
  intro r unbacked hr hu
  subst hu
  refine ⟨fun hst => ?_, fun hst hc => ?_, fun hst hc => ?_⟩
  · have hrun : unbackRecord tag s = updateRecord tag (fun r => { r.dropEntryRef with state := .unbacked }) s := by
      simp [unbackRecord, hr, hst]
    rw [hrun, findRecord_updateRecord _ _ (by exact fun _ => rfl), hr]
    rfl
  · have hrun : unbackRecord tag s = updateRecord tag TrackRecord.toUnbid (abortClaim tag s) := by
      simp [unbackRecord, hr, hst, hc]
    rw [hrun]
    refine ⟨?_, by rw [updateRecord_txQueue]; exact abortClaim_none hc⟩
    have := findRecord_updateRecord (s := abortClaim tag s) tag TrackRecord.toUnbid (fun _ => rfl)
    rw [this]
    exact congrArg (Option.map TrackRecord.toUnbid) hr
  · have hrun : unbackRecord tag s =
        abortClaim tag (updateRecord tag (fun r => { r.dropEntryRef with state := .unbacked }) s) := by
      simp [unbackRecord, hr, hst, hc]
    rw [hrun]
    refine ⟨?_, ?_, fun g hg ho => abortClaim_own tag g hg ho⟩
    · have := findRecord_updateRecord (s := s) tag (fun r => { r.dropEntryRef with state := .unbacked }) (fun _ => rfl)
      rw [hr] at this
      exact this
    · rw [claimInTransmission_abortClaim]
      exact hc

/-- The record of a withdrawn CONTESTED entry moves as R30 states, in a run that withdraws its tag once. -/
theorem Removes.loses {l : List Removal} (h : Removes b s l t) (hd : (l.map fun r => r.entry.tag).Nodup) {m : MissReason}
    {e : PlanEntry} (hr : Removal.withdrawn m e ∈ l) (he : e.state = .contested) : LosesEntry s t e.tag := by
  obtain ⟨a, k, rfl⟩ := List.append_of_mem hr
  obtain ⟨v, ha, hk⟩ := h.split
  rw [List.map_append, List.map_cons, List.nodup_append, List.nodup_cons] at hd
  obtain ⟨_, ⟨hnewer, _⟩, holder⟩ := hd
  have hrun : (Removal.withdrawn m e).run b v = unbackRecord e.tag (takeOut b e v) := by
    simp only [Removal.run, withdrawEntry, he]
  have hloses := unbackRecord_loses (s := takeOut b e v) e.tag
  rw [← hrun] at hloses
  refine hloses.congr ((ha.spares fun r hr ht => ?_).trans (takeOut_spares e _)) (hk.spares fun r hr ht => ?_)
  · exact holder _ (List.mem_map_of_mem hr) _ List.mem_cons_self ht.symm
  · exact hnewer (List.mem_map.mpr ⟨r, hr, ht.symm⟩)

end Sys2Proof.Machine
end

section
/-!
The transmit queue after a run of removals (R26, R27, R35): claims pass on or go, the other frames stay, and the MISS
frames of the withdrawn WON and PLACING entries stand behind them.
-/
namespace Sys2Proof.Machine

variable {b : BuildId} {s t u : State}

/-- What becomes of the frames held: every frame but a claim stays as it is, and a claim goes or is at most marked. -/
structure PassesOn (F : TxFrame → Option TxFrame) : Prop where
  other : ∀ f, f.isClaim = false → F f = some f
  marked : ∀ f g, F f = some g → g = { f with noRetry := g.noRetry }

theorem PassesOn.all : PassesOn some := ⟨fun _ _ => rfl, fun f g h => by cases h; rfl⟩

theorem PassesOn.comp {F G : TxFrame → Option TxFrame} (hF : PassesOn F) (hG : PassesOn G) :
    PassesOn fun f => (F f).bind G where
  other f hf := by simp [hF.other f hf, hG.other f hf]
  marked f g h := by
    obtain ⟨x, hx, hg⟩ := Option.bind_eq_some_iff.mp h
    rw [hG.marked x g hg, hF.marked f x hx]

theorem isClaim_of_isOwnClaim {tag : Tag} {f : TxFrame} (h : f.isOwnClaim tag = true) : f.isClaim = true := by
  unfold TxFrame.isOwnClaim at h
  unfold TxFrame.isClaim
  split at h <;> simp_all

theorem abortFrame_passesOn (tag : Tag) : PassesOn (abortFrame tag) where
  other f hf := by
    apply abortFrame_other
    by_contra h
    rw [isClaim_of_isOwnClaim (by simpa using h)] at hf
    exact Bool.true_eq_false_eq_False hf
  marked f g h := (abortFrame_some h).1

/-- The frames that pass on are at most as many, and their bodies are bodies of the frames held. -/
theorem PassesOn.bodies {F : TxFrame → Option TxFrame} (hF : PassesOn F) (q : List TxFrame) :
    ((q.filterMap F).map TxFrame.body).Sublist (q.map TxFrame.body) := by
  induction q with
  | nil => exact .slnil
  | cons f q ih =>
    cases h : F f with
    | none => simpa [h] using ih.cons f.body
    | some g =>
      have hg : g.body = f.body := by rw [hF.marked f g h]
      simpa [h, hg] using ih

theorem PassesOn.mem {F : TxFrame → Option TxFrame} (hF : PassesOn F) {q : List TxFrame} {f : TxFrame} (hf : f ∈ q)
    (hc : f.isClaim = false) : f ∈ q.filterMap F :=
  List.mem_filterMap.mpr ⟨f, hf, hF.other f hc⟩

/-- The queue q' is q with the claims passed on, and behind it MISS frames of withdrawn entries of l that were not
CONTESTED; with room for all, of each of them. -/
structure QueueAfter (st : StationState) (l : List Removal) (q : List TxFrame) (F : TxFrame → Option TxFrame)
    (added : List TxBody) (q' : List TxFrame) : Prop where
  eq : q' = q.filterMap F ++ added.map TxFrame.fresh
  passes : PassesOn F
  misses : ∀ body ∈ added, ∃ m e, body = .miss e.tag m ∧ Removal.withdrawn m e ∈ l ∧ e.state ≠ .contested
  few : added.length ≤ l.length
  all : st ≠ .silent → q.length + l.length ≤ 8 → ∀ m e, Removal.withdrawn m e ∈ l → e.state ≠ .contested →
    TxBody.miss e.tag m ∈ added

theorem QueueAfter.refl (st : StationState) (q : List TxFrame) : QueueAfter st [] q some [] q where
  eq := by simp
  passes := .all
  misses := by simp
  few := le_rfl
  all := by simp

theorem QueueAfter.length_le {st : StationState} {l : List Removal} {q q' : List TxFrame}
    {F : TxFrame → Option TxFrame} {added : List TxBody} (h : QueueAfter st l q F added q') :
    q'.length ≤ q.length + l.length := by
  rw [h.eq, List.length_append, List.length_map]
  exact Nat.add_le_add (List.length_filterMap_le _ _) h.few

theorem QueueAfter.trans {st : StationState} {l k : List Removal} {q q' q'' : List TxFrame}
    {F G : TxFrame → Option TxFrame} {x y : List TxBody} (h : QueueAfter st l q F x q')
    (j : QueueAfter st k q' G y q'') : QueueAfter st (l ++ k) q (fun f => (F f).bind G) (x ++ y) q'' where
  eq := by
    have hx : (x.map TxFrame.fresh).filterMap G = x.map TxFrame.fresh := by
      refine (List.filterMap_congr fun f hf => ?_).trans List.filterMap_some
      obtain ⟨body, hbody, rfl⟩ := List.mem_map.mp hf
      obtain ⟨m, e, rfl, _, _⟩ := h.misses body hbody
      exact j.passes.other _ rfl
    rw [j.eq, h.eq, List.filterMap_append, hx, List.filterMap_filterMap, List.map_append, List.append_assoc]
  passes := h.passes.comp j.passes
  misses body hbody := by
    rcases List.mem_append.mp hbody with hb | hb
    · obtain ⟨m, e, he, hl, hs⟩ := h.misses body hb
      exact ⟨m, e, he, List.mem_append_left _ hl, hs⟩
    · obtain ⟨m, e, he, hl, hs⟩ := j.misses body hb
      exact ⟨m, e, he, List.mem_append_right _ hl, hs⟩
  few := by
    rw [List.length_append, List.length_append]
    exact Nat.add_le_add h.few j.few
  all hst hroom m e hr he := by
    have hlen := h.length_le
    rw [List.length_append] at hroom
    rcases List.mem_append.mp hr with hr | hr
    · exact List.mem_append_left _ (h.all hst (by omega) m e hr he)
    · exact List.mem_append_right _ (j.all hst (by omega) m e hr he)

theorem takeOut_txQueue (e : PlanEntry) : (takeOut b e s).txQueue = s.txQueue := by simp [takeOut]

/-- A record moves with its claim aborted or as it is. -/
theorem unbackRecord_txQueue (tag : Tag) :
    (unbackRecord tag s).txQueue = s.txQueue ∨ (unbackRecord tag s).txQueue = s.txQueue.filterMap (abortFrame tag) := by
  unfold unbackRecord
  split
  · exact .inl rfl
  · split
    · exact .inl rfl
    · split
      · exact .inr (abortClaim_txQueue tag)
      · exact .inr (abortClaim_txQueue tag)
    all_goals exact .inl rfl

/-- An offered MISS stands behind the frames held, or is dropped where the queue is full or the station SILENT (R26). -/
theorem offer_miss_queueAfter (m : MissReason) (e : PlanEntry) (he : e.state ≠ .contested) :
    ∃ added, QueueAfter s.station [.withdrawn m e] s.txQueue some added (offer (.miss e.tag m) s).txQueue := by
  by_cases h : s.station = .silent ∨ txCapacity ≤ s.txQueue.length
  · refine ⟨[], by simp [offer, h], .all, by simp, by simp, fun hst hroom => ?_⟩
    rcases h with h | h
    · exact absurd h hst
    · simp only [txCapacity, List.length_cons, List.length_nil] at h hroom
      omega
  · refine ⟨[.miss e.tag m], by simp [offer, h], .all, ?_, le_rfl, ?_⟩
    · rintro body hb
      exact ⟨m, e, by simpa using hb, by simp, he⟩
    · intro _ _ m' e' hr _
      simp only [List.mem_singleton, Removal.withdrawn.injEq] at hr
      obtain ⟨rfl, rfl⟩ := hr
      exact List.mem_cons_self

theorem Removal.queueAfter (r : Removal) :
    ∃ F added, QueueAfter s.station [r] s.txQueue F added (r.run b s).txQueue := by
  cases r with
  | withdrawn m e =>
    simp only [Removal.run, withdrawEntry]
    have hplaced (he : e.state ≠ .contested) := offer_miss_queueAfter
      (s := leavePick e.tag (takeOut b e s)) m e he
    rw [leavePick_txQueue, takeOut_txQueue, leavePick_station,
      show (takeOut b e s).station = s.station by simp [takeOut]] at hplaced
    cases he : e.state
    · have hq := unbackRecord_txQueue (s := takeOut b e s) e.tag
      rw [takeOut_txQueue] at hq
      have hnone (m' : MissReason) (e' : PlanEntry) (hr : Removal.withdrawn m' e' ∈ [Removal.withdrawn m e])
          (he' : e'.state ≠ .contested) : TxBody.miss e'.tag m' ∈ [] := by
        simp only [List.mem_singleton, Removal.withdrawn.injEq] at hr
        exact absurd (hr.2 ▸ he) he'
      rcases hq with hq | hq
      · exact ⟨some, [], by simp [hq], .all, by simp, by simp, fun _ _ => hnone⟩
      · exact ⟨abortFrame e.tag, [], by simp [hq], abortFrame_passesOn _, by simp, by simp, fun _ _ => hnone⟩
    · exact ⟨some, hplaced (by simp [he])⟩
    · exact ⟨some, hplaced (by simp [he])⟩
  | dropped e =>
    refine ⟨some, [], ?_, .all, by simp, by simp, by simp⟩
    simp [Removal.run, dropEntry, takeOut_txQueue]

/-- The queue after a run of removals. -/
theorem Removes.queueAfter {l : List Removal} (h : Removes b s l t) :
    ∃ F added, QueueAfter s.station l s.txQueue F added t.txQueue := by
  induction h with
  | refl => exact ⟨_, _, .refl _ _⟩
  | replan f _ ih => simpa using ih
  | remove r h ih =>
    obtain ⟨F, x, hq⟩ := ih
    obtain ⟨G, y, hr⟩ := r.queueAfter
    rw [h.withdraws.frame.station] at hr
    exact ⟨_, _, hq.trans hr⟩

/-- The MISS of a withdrawn WON or PLACING entry is held where the queue has room for the whole run (R35, R86). -/
theorem Removes.miss_held {l : List Removal} (h : Removes b s l t) (hst : s.station ≠ .silent)
    (hroom : s.txQueue.length + l.length ≤ 8) {m : MissReason} {e : PlanEntry} (hr : Removal.withdrawn m e ∈ l)
    (he : e.state ≠ .contested) : TxFrame.fresh (.miss e.tag m) ∈ t.txQueue := by
  obtain ⟨F, added, hq⟩ := h.queueAfter
  rw [hq.eq]
  exact List.mem_append_right _ (List.mem_map_of_mem (hq.all hst hroom m e hr he))

end Sys2Proof.Machine
end

section
/-!
The recomputation (R87 to R92): the walk splits the plan list into the entries that stand and those that fall, the
first applied in plan order, the others withdrawn.
-/
namespace Sys2Proof.Machine

variable {b : BuildId} {s t u : State}

/-- An entry keeps its place in the walk over a surface: it is PLACING, or passes the test (R89, R90). -/
def standsAt (v : LineSetup) (limit : Nat) (u : Surface) (e : PlanEntry) : Bool :=
  e.state == .placing || (baseOver u.height e.foot == e.base && standingChecks v limit u e.base e.h e.weight e.foot)

/-- The entries that the walk applies to a surface, in plan order (R89). -/
def standing (v : LineSetup) (limit : Nat) : Surface → List PlanEntry → List PlanEntry
  | _, [] => []
  | u, e :: l =>
    if standsAt v limit u e then e :: standing v limit (u.apply e.foot e.h e.weight e.rating) l else standing v limit u l

/-- The entries that the walk withdraws, in plan order (R91). -/
def fallen (v : LineSetup) (limit : Nat) : Surface → List PlanEntry → List PlanEntry
  | _, [] => []
  | u, e :: l =>
    if standsAt v limit u e then fallen v limit (u.apply e.foot e.h e.weight e.rating) l else e :: fallen v limit u l

/-- The height limit of a build's order (R72). -/
def Build.heightLimit (x : Build) : Nat := (x.order.map OrderHeader.heightLimit).getD 0

theorem stacked_cons (v : Surface) (e : PlanEntry) (l : List PlanEntry) :
    stacked v (e :: l) = stacked (v.apply e.foot e.h e.weight e.rating) l := by
  simp only [stacked, List.foldl_cons]

theorem walkEntry_stands {e : PlanEntry} (flag : Bool)
    (h : standsAt t.line (t.build b).heightLimit (t.build b).planned e = true) :
    walkEntry b (t, flag) e = (applyPlanned b e t, flag) := if_pos h

theorem walkEntry_falls {e : PlanEntry} (flag : Bool)
    (h : ¬ standsAt t.line (t.build b).heightLimit (t.build b).planned e = true) :
    walkEntry b (t, flag) e = (withdrawEntry b .withdrawn e t, true) := if_neg h

/-- The walk in the terms of the two lists. -/
theorem walk_removes (l : List PlanEntry) (t : State) (flag : Bool) :
    Removes b t ((fallen t.line (t.build b).heightLimit (t.build b).planned l).map (.withdrawn .withdrawn))
        (l.foldl (walkEntry b) (t, flag)).1 ∧
      ((l.foldl (walkEntry b) (t, flag)).1.build b).planned =
        stacked (t.build b).planned (standing t.line (t.build b).heightLimit (t.build b).planned l) ∧
      (l.foldl (walkEntry b) (t, flag)).2 =
        (flag || !(fallen t.line (t.build b).heightLimit (t.build b).planned l).isEmpty) := by
  induction l generalizing t flag with
  | nil => exact ⟨.refl t, rfl, by simp [fallen]⟩
  | cons e l ih =>
    rw [List.foldl_cons]
    by_cases h : standsAt t.line (t.build b).heightLimit (t.build b).planned e = true
    · have hb : (applyPlanned b e t).build b =
          { t.build b with planned := (t.build b).planned.apply e.foot e.h e.weight e.rating } :=
        updateBuild_build_same _ _ _
      have hu : ((applyPlanned b e t).build b).planned = (t.build b).planned.apply e.foot e.h e.weight e.rating := by
        rw [hb]
      have hlim : ((applyPlanned b e t).build b).heightLimit = (t.build b).heightLimit := by simp only [Build.heightLimit, hb]
      have hl : (applyPlanned b e t).line = t.line := by simp [State.line, applyPlanned]
      obtain ⟨h1, h2, h3⟩ := ih (applyPlanned b e t) flag
      rw [hu, hlim, hl] at h1 h2 h3
      rw [walkEntry_stands flag h, standing, fallen, if_pos h, if_pos h]
      refine ⟨?_, by rw [h2, stacked_cons], h3⟩
      exact (Removes.replan (fun x => x.planned.apply e.foot e.h e.weight e.rating) (.refl t)).trans h1
    · have hb : (withdrawEntry b .withdrawn e t).build b = _ := (Removal.withdrawn .withdrawn e).run_build
      have hu : ((withdrawEntry b .withdrawn e t).build b).planned = (t.build b).planned := by rw [hb]
      have hlim : ((withdrawEntry b .withdrawn e t).build b).heightLimit = (t.build b).heightLimit := by simp only [Build.heightLimit, hb]
      have hl : (withdrawEntry b .withdrawn e t).line = t.line := by
        rw [State.line, (withdrawEntry_withdraws _ e).frame.lineSetup]; rfl
      obtain ⟨h1, h2, h3⟩ := ih (withdrawEntry b .withdrawn e t) true
      rw [hu, hlim, hl] at h1 h2 h3
      rw [walkEntry_falls flag h, standing, fallen, if_neg h, if_neg h]
      refine ⟨(Removal.withdrawn .withdrawn e).removes.trans h1, h2, ?_⟩
      rw [h3]
      simp

/-- The entries of a build that its recomputation withdraws. -/
def Build.falls (v : LineSetup) (x : Build) : List PlanEntry := fallen v x.heightLimit x.built x.plan

/-- The entries of a build that its recomputation applies. -/
def Build.stands (v : LineSetup) (x : Build) : List PlanEntry := standing v x.heightLimit x.built x.plan

/-- A recomputation withdraws the entries that fall, stacks the others on the built surface, and triggers a sweep where
it has withdrawn one (R88 to R91). -/
theorem recompute_removes (b : BuildId) (s : State) :
    ∃ w, Removes b s (((s.build b).falls s.line).map (.withdrawn .withdrawn)) w ∧
      (w.build b).planned = stacked (s.build b).built ((s.build b).stands s.line) ∧
      recompute b s = if (s.build b).falls s.line = [] then w else triggerSweep w := by
  obtain ⟨v, hv⟩ : ∃ v, v = updateBuild b (fun x => { x with planned := x.built }) s := ⟨_, rfl⟩
  have hb : v.build b = { s.build b with planned := (s.build b).built } := by rw [hv, updateBuild_build_same]
  have hu : (v.build b).planned = (s.build b).built := by rw [hb]
  have hlim : (v.build b).heightLimit = (s.build b).heightLimit := by simp only [Build.heightLimit, hb]
  have hl : v.line = s.line := by rw [hv]; simp [State.line]
  obtain ⟨h1, h2, h3⟩ := walk_removes (b := b) (s.build b).plan v false
  rw [hu, hlim, hl] at h1 h2 h3
  refine ⟨_, ?_, h2, ?_⟩
  · have hstart : Removes b s [] v := hv ▸ .replan (fun x => x.built) (.refl s)
    exact hstart.trans h1
  · simp only [recompute, ← hv, h3, Bool.false_or, Bool.not_eq_true', List.isEmpty_eq_false_iff, ne_eq, ite_not]
    rfl

end Sys2Proof.Machine
end

section
/-!
What a recomputation leaves (R88 to R92): which entries stand, in the terms of the rules, and the surface that carries
them. O60 is assembled from these.
-/
namespace Sys2Proof.Machine

variable {b : BuildId} {s t : State}

/-! ### Which entries stand (R89, R90) -/

theorem standing_sublist (v : LineSetup) (limit : Nat) (u : Surface) (l : List PlanEntry) :
    (standing v limit u l).Sublist l := by
  induction l generalizing u with
  | nil => exact .slnil
  | cons e l ih =>
    rw [standing]
    split
    · exact (ih _).cons_cons e
    · exact (ih _).cons e

theorem fallen_sublist (v : LineSetup) (limit : Nat) (u : Surface) (l : List PlanEntry) :
    (fallen v limit u l).Sublist l := by
  induction l generalizing u with
  | nil => exact .slnil
  | cons e l ih =>
    rw [fallen]
    split
    · exact (ih _).cons e
    · exact (ih _).cons_cons e

/-- The walk over a list goes on where the walk over its first part has come. -/
theorem standing_append (v : LineSetup) (limit : Nat) (u : Surface) (l k : List PlanEntry) :
    standing v limit u (l ++ k) =
      standing v limit u l ++ standing v limit (stacked u (standing v limit u l)) k := by
  induction l generalizing u with
  | nil => rfl
  | cons e l ih =>
    rw [List.cons_append, standing, standing]
    split
    · rw [ih, stacked_cons, List.cons_append]
    · exact ih u

/-- With distinct tags the walk parts the list: the entries that stand are those of the list among them, and those that
fall are the others. -/
theorem standing_fallen_eq (v : LineSetup) (limit : Nat) (u : Surface) {l : List PlanEntry}
    (h : (l.map PlanEntry.tag).Nodup) :
    l.filter (fun e => decide (e ∈ standing v limit u l)) = standing v limit u l ∧
      l.filter (fun e => decide (e ∉ standing v limit u l)) = fallen v limit u l := by
  induction l generalizing u with
  | nil => exact ⟨rfl, rfl⟩
  | cons x l ih =>
    rw [List.map_cons, List.nodup_cons] at h
    have hx : x ∉ l := fun hx => h.1 (List.mem_map_of_mem hx)
    have hne (e : PlanEntry) (he : e ∈ l) : e ≠ x := fun h => hx (h ▸ he)
    rw [standing, fallen]
    split
    · obtain ⟨h1, h2⟩ := ih (u.apply x.foot x.h x.weight x.rating) h.2
      rw [List.filter_cons_of_pos (by simp), List.filter_cons_of_neg (by simp)]
      refine ⟨congrArg _ (Eq.trans (List.filter_congr fun e he => ?_) h1),
        Eq.trans (List.filter_congr fun e he => ?_) h2⟩ <;> simp [hne e he]
    · obtain ⟨h1, h2⟩ := ih u h.2
      have hout : x ∉ standing v limit u l := fun hs => hx ((standing_sublist _ _ _ _).subset hs)
      rw [List.filter_cons_of_neg (by simpa using hout), List.filter_cons_of_pos (by simpa using hout), h1, h2]
      exact ⟨rfl, rfl⟩

/-- With distinct tags an entry falls exactly when it does not stand. -/
theorem mem_fallen_iff (v : LineSetup) (limit : Nat) (u : Surface) {l : List PlanEntry}
    (h : (l.map PlanEntry.tag).Nodup) (e : PlanEntry) :
    e ∈ fallen v limit u l ↔ e ∈ l ∧ e ∉ standing v limit u l := by
  rw [← (standing_fallen_eq v limit u h).2]
  simp

/-- With distinct tags two entries of a list with the same tag are one. -/
theorem eq_of_tag_eq {l : List PlanEntry} (h : (l.map PlanEntry.tag).Nodup) {e x : PlanEntry} (he : e ∈ l) (hx : x ∈ l)
    (ht : e.tag = x.tag) : e = x :=
  List.inj_on_of_nodup_map h he hx ht

/-- With distinct tags the entries that stand are those of the list whose tags have not fallen. -/
theorem filter_fallen_tags (v : LineSetup) (limit : Nat) (u : Surface) {l : List PlanEntry}
    (h : (l.map PlanEntry.tag).Nodup) :
    l.filter (fun e => decide (∀ x ∈ fallen v limit u l, e.tag ≠ x.tag)) = standing v limit u l := by
  refine Eq.trans (List.filter_congr fun e he => decide_eq_decide.mpr ⟨fun hf => ?_, fun hs x hx ht => ?_⟩)
    (standing_fallen_eq v limit u h).1
  · by_contra hs
    exact hf e ((mem_fallen_iff v limit u h e).mpr ⟨he, hs⟩) rfl
  · obtain ⟨hxl, hxs⟩ := (mem_fallen_iff v limit u h x).mp hx
    exact hxs (eq_of_tag_eq h he hxl ht ▸ hs)

/-- An entry stands exactly when it passes its test on the surface that the entries before it leave (R88 to R90). -/
theorem mem_standing_iff (v : LineSetup) (limit : Nat) (u : Surface) {older newer : List PlanEntry} {e : PlanEntry}
    (h : ((older ++ e :: newer).map PlanEntry.tag).Nodup) :
    (e ∈ standing v limit u (older ++ e :: newer) ↔ standsAt v limit (stacked u (standing v limit u older)) e = true) ∧
      older.filter (fun z => decide (z ∈ standing v limit u (older ++ e :: newer))) = standing v limit u older := by
  rw [List.map_append, List.map_cons, List.nodup_append, List.nodup_cons] at h
  obtain ⟨holder, ⟨hnewer, _⟩, hdisj⟩ := h
  have hsub (l : List PlanEntry) (w : Surface) := (standing_sublist v limit w l).subset
  rw [standing_append]
  constructor
  · have h1 : e ∉ standing v limit u older := fun hs =>
      hdisj _ (List.mem_map_of_mem (hsub _ _ hs)) _ List.mem_cons_self rfl
    rw [List.mem_append, or_iff_right h1, standing]
    split
    · next hst => simp [hst]
    · next hst =>
      simp only [hst, Bool.false_eq_true, iff_false]
      exact fun hs => hnewer (List.mem_map_of_mem (hsub _ _ hs))
  · refine Eq.trans (List.filter_congr fun z hz => decide_eq_decide.mpr ?_) (standing_fallen_eq v limit u holder).1
    rw [List.mem_append, or_iff_left]
    intro hs
    exact hdisj _ (List.mem_map_of_mem hz) _ (List.mem_map_of_mem (hsub _ _ hs)) rfl

theorem standsAt_iff (v : LineSetup) (limit : Nat) (u : Surface) (e : PlanEntry) :
    standsAt v limit u e = true ↔ e.state = .placing ∨ StandsOn v limit u e := by
  simp only [standsAt, standingChecks, heightCheck, weightCheck, cogCheck, Bool.and_eq_true, Bool.or_eq_true,
    beq_iff_eq, decide_eq_true_eq, supported_iff, loadCheck_iff, and_assoc]
  rfl

/-- A list of PLACING entries stands whole (R89). -/
theorem fallen_placing (v : LineSetup) (limit : Nat) (u : Surface) {l : List PlanEntry}
    (h : ∀ e ∈ l, e.state = .placing) : fallen v limit u l = [] := by
  induction l generalizing u with
  | nil => rfl
  | cons e l ih =>
    have he : standsAt v limit u e = true := (standsAt_iff _ _ _ _).mpr (.inl (h e List.mem_cons_self))
    rw [fallen, if_pos he]
    exact ih _ fun x hx => h x (List.mem_cons_of_mem _ hx)

/-- A build whose plan list holds what stands, stacked on its built surface, is recomputed (R88 to R92). -/
theorem recomputed_of_stands (v : LineSetup) {x y : Build} (h : (x.plan.map PlanEntry.tag).Nodup)
    (hplan : y.plan = x.stands v) (hplanned : y.planned = stacked x.built (x.stands v)) : Recomputed v x y := by
  refine ⟨by rw [hplanned, hplan], by rw [hplan]; exact standing_sublist _ _ _ _, ?_⟩
  intro limit hlimit hnone older e newer hsplit
  rw [hplan, Build.stands, hsplit]
  have h' := h
  rw [hsplit] at h'
  obtain ⟨hmem, hfilter⟩ := mem_standing_iff v x.heightLimit x.built h'
  rw [hfilter, hmem, standsAt_iff]
  cases ho : x.order with
  | some o => rw [hlimit o ho, Build.heightLimit, ho]; rfl
  | none =>
    have hp : e.state = .placing := hnone ho e (by simp [hsplit])
    simp [hp]

/-! ### The surface that carries them (R92) -/

theorem apply_carries (u : Surface) (f : Footprint) (h w r : Nat) (i : Fin 24) :
    u.height[i] ≤ (u.apply f h w r).height[i] ∧ (u.apply f h w r).margin[i] ≤ u.margin[i] := by
  have hbase : covers f i = true → u.height[i] ≤ baseOver u.height f := fun hc =>
    (baseOver_le u.height f _).mp le_rfl i ((covers_iff f i).mp hc)
  simp only [Surface.apply, Fin.getElem_fin, Vector.getElem_ofFn]
  simp only [Fin.getElem_fin] at hbase
  split
  · next hc => exact ⟨(hbase hc).trans (Nat.le_add_right _ _), (Nat.min_le_left _ _).trans (Nat.sub_le _ _)⟩
  · exact ⟨le_rfl, le_rfl⟩

theorem stacked_carries (u : Surface) (l : List PlanEntry) (i : Fin 24) :
    u.height[i] ≤ (stacked u l).height[i] ∧ (stacked u l).margin[i] ≤ u.margin[i] := by
  induction l generalizing u with
  | nil => exact ⟨le_rfl, le_rfl⟩
  | cons e l ih =>
    rw [stacked_cons]
    have h1 := apply_carries u e.foot e.h e.weight e.rating i
    have h2 := ih (u.apply e.foot e.h e.weight e.rating)
    exact ⟨h1.1.trans h2.1, h2.2.trans h1.2⟩

theorem stacked_cases (u : Surface) (l : List PlanEntry) : (stacked u l).cases = u.cases + l.length := by
  induction l generalizing u with
  | nil => rfl
  | cons e l ih =>
    have happly : (u.apply e.foot e.h e.weight e.rating).cases = u.cases + 1 := rfl
    rw [stacked_cons, ih, happly, List.length_cons]
    omega

/-! ### The recomputation of a state -/

/-- What a withdrawal may write besides the builds. -/
theorem Withdraws.eq (h : Withdraws b s t) : t = { s with
    txQueue := t.txQueue, positions := t.positions, track := t.track, throttled := t.throttled, sweep := t.sweep,
    pendingSweep := t.pendingSweep, buildA := t.buildA, buildB := t.buildB, pick := t.pick,
    counters := t.counters } := by
  rw [← h.seen, ← h.fault]
  exact h.frame

theorem Withdraws.built (h : Withdraws b s t) : (t.build b).built = (s.build b).built := by rw [h.same]

/-- A recomputation leaves on the plan list what stands (R89, R90). -/
theorem recompute_plan (h : ((s.build b).plan.map PlanEntry.tag).Nodup) :
    ((recompute b s).build b).plan = (s.build b).stands s.line := by
  obtain ⟨w, hw, _, hs⟩ := recompute_removes b s
  have hplan : (w.build b).plan = (s.build b).stands s.line := by
    rw [hw.build]
    simp only [List.forall_mem_map]
    exact filter_fallen_tags _ _ _ h
  rw [hs]
  split
  · exact hplan
  · rw [triggerSweep_build, hplan]

theorem recompute_planned (b : BuildId) (s : State) :
    ((recompute b s).build b).planned = stacked (s.build b).built ((s.build b).stands s.line) := by
  obtain ⟨w, _, hp, hs⟩ := recompute_removes b s
  rw [hs]
  split
  · exact hp
  · rw [triggerSweep_build, hp]

/-- A recomputation of a build with distinct tags recomputes it (R88 to R92). -/
theorem recompute_recomputed (h : ((s.build b).plan.map PlanEntry.tag).Nodup) :
    Recomputed s.line (s.build b) ((recompute b s).build b) :=
  recomputed_of_stands _ h (recompute_plan h) (recompute_planned b s)

/-- The entry of a tag is the first of its plan list that holds it. -/
theorem findEntry_iff (c : BuildId) (tag : Tag) (e : PlanEntry) : findEntry c tag s = some e ↔
    ∃ older newer, (s.build c).plan = older ++ e :: newer ∧ e.tag = tag ∧ ∀ q ∈ older, q.tag ≠ tag :=
  find?_key_iff PlanEntry.tag tag (s.build c).plan e

theorem findPick_iff (tag : Tag) (p : PickEntry) : findPick tag s = some p ↔
    ∃ older newer, s.pick = older ++ p :: newer ∧ p.tag = tag ∧ ∀ q ∈ older, q.tag ≠ tag :=
  find?_key_iff PickEntry.tag tag s.pick p

theorem findEntry_tag {c : BuildId} {tag : Tag} {e : PlanEntry} (h : findEntry c tag s = some e) : e.tag = tag := by
  obtain ⟨_, _, _, ht, _⟩ := (findEntry_iff c tag e).mp h
  exact ht

theorem findEntry_mem {c : BuildId} {tag : Tag} {e : PlanEntry} (h : findEntry c tag s = some e) :
    e ∈ (s.build c).plan :=
  List.mem_of_find?_eq_some h

end Sys2Proof.Machine
end

section
/-!
Commands that take one entry out and recompute its build (R87): EYE_WINDOW_END and PICK_CLOSE_POINT give a WON case up
(R102, R104), SEND_DEADLINE takes a bid back (R12, R29), and a better CLAIM loses a contest (R28). O60 is assembled from
these and from the recomputation.
-/
namespace Sys2Proof.Machine

variable {b : BuildId} {s t : State} {tag : Tag} {e : PlanEntry}

theorem findEntry_congr {c : BuildId} (h : t.build c = s.build c) : findEntry c tag t = findEntry c tag s := by
  rw [findEntry, findEntry, h]

/-- Recomputed reads of the earlier build its built surface, its plan list and its order. -/
theorem Recomputed.congr {v : LineSetup} {x x' y : Build} (h : Recomputed v x y) (hbuilt : x'.built = x.built)
    (hplan : x'.plan = x.plan) (horder : x'.order = x.order) : Recomputed v x' y := by
  unfold Recomputed
  rw [hbuilt, hplan, horder]
  exact h

/-- A build whose entry of one tag has been taken out is recomputed on the entries that are left (R87). -/
theorem recompute_without {u : State} (hnodup : ((s.build b).plan.map PlanEntry.tag).Nodup) (hline : u.line = s.line)
    (hplan : (u.build b).plan = (s.build b).plan.filter (fun z => !(z.tag == tag)))
    (hbuilt : (u.build b).built = (s.build b).built) (horder : (u.build b).order = (s.build b).order) :
    Recomputed s.line { s.build b with plan := (s.build b).plan.filter (fun z => z.tag != tag) }
      ((recompute b u).build b) := by
  have hd : ((u.build b).plan.map PlanEntry.tag).Nodup := by
    rw [hplan]
    exact hnodup.sublist (List.filter_sublist.map _)
  have h := recompute_recomputed (s := u) hd
  rw [hline] at h
  exact h.congr hbuilt.symm hplan.symm horder.symm

theorem PlanFrame.line (h : PlanFrame s t) : t.line = s.line := by rw [State.line, State.line, h.lineSetup]
theorem PlanFrame.own1 (h : PlanFrame s t) : t.own1 = s.own1 := by rw [State.own1, State.own1, h.setup1]
theorem PlanFrame.own2 (h : PlanFrame s t) : t.own2 = s.own2 := by rw [State.own2, State.own2, h.setup2]

/-- A withdrawal of one entry that stands alone is recomputed on the entries that are left (R87). -/
theorem withdrawAlone_recomputed (m : MissReason) (e : PlanEntry) (h : ((s.build b).plan.map PlanEntry.tag).Nodup) :
    Recomputed s.line { s.build b with plan := (s.build b).plan.filter (fun z => z.tag != e.tag) }
      ((withdrawAlone b m e s).build b) := by
  have hb := (Removal.withdrawn m e).run_build (b := b) (s := s)
  exact recompute_without h (withdrawEntry_withdraws (b := b) m e).frame.line (congrArg Build.plan hb)
    (withdrawEntry_withdraws m e).built (by rw [(withdrawEntry_withdraws m e).same])

theorem takeOut_recomputed (e : PlanEntry) (h : ((s.build b).plan.map PlanEntry.tag).Nodup) :
    Recomputed s.line { s.build b with plan := (s.build b).plan.filter (fun z => z.tag != e.tag) }
      ((recompute b (takeOut b e s)).build b) := by
  have hb := takeOut_build (b := b) (s := s) e
  exact recompute_without h (takeOut_withdraws (b := b) e).frame.line (congrArg Build.plan hb)
    (by rw [hb]) (by rw [hb])

/-- The CONTESTED entry of a tag is taken out and its build recomputed (R86, R87). -/
theorem removeContested_entry (h : findEntry b tag s = some e) :
    removeContested b tag s = recompute b (takeOut b e s) := by
  simp [removeContested, h]

theorem removeBidEntry_bid {r : TrackRecord} {o : OwnBid} (h : r.bid = some o) :
    removeBidEntry r s = removeContested o.build r.tag s := by
  simp [removeBidEntry, h]

/-! ### Cases given up (R102, R104) -/

/-- The two commands that give a WON case up: command, position, reason and counter (R102, R104). -/
inductive GivesUp (tag : Tag) : Instr → PosKind → MissReason → CounterName → Prop
  | absent : GivesUp tag (.eyeWindowEnd tag) .eyeWindowEnd .absent .absent
  | lapsed : GivesUp tag (.pickClosePoint tag) .pickClose .lapsed .lapsed

/-- The state in which a given-up case's entry is withdrawn: its position taken, its counter advanced. -/
def beforeGivingUp (k : PosKind) (c : CounterName) (tag : Tag) (s : State) : State := count c (unregister k tag s)

theorem exec_givesUp {cmd : Instr} {k : PosKind} {m : MissReason} {c : CounterName} {p : PickEntry}
    (h : GivesUp tag cmd k m c) (hr : EventRaised s k tag) (hp : findPick tag s = some p)
    (he : findEntry p.build tag s = some e) :
    exec cmd s = .next (showBeacons (withdrawAlone p.build m e (beforeGivingUp k c tag s))) := by
  have hp' : findPick tag (beforeGivingUp k c tag s) = some p := hp
  have he' : findEntry p.build tag (beforeGivingUp k c tag s) = some e := by
    rw [findEntry_congr (t := beforeGivingUp k c tag s) (s := s) (build_congr rfl rfl _)]
    exact he
  have hgive : giveUp tag m (beforeGivingUp k c tag s) = withdrawAlone p.build m e (beforeGivingUp k c tag s) := by
    simp only [giveUp, hp', he']
  have hraised := (isRaised_iff _ _).mpr hr
  rw [← hgive]
  cases h with
  | absent => exact congrArg done (if_pos hraised)
  | lapsed => exact congrArg done (if_pos hraised)

/-! ### The send deadline (R12, R29) -/

/-- The state after a raised send deadline is taken, before a bid is taken back (R12). -/
def deadlineTaken (tag : Tag) (s : State) : State :=
  updateRecord tag (fun r => { r with deadlinePassed := true }) (unregister .sendDeadline tag s)

theorem exec_sendDeadline (hr : EventRaised s .sendDeadline tag) :
    exec (.sendDeadline tag) s = .next (showBeacons (takeDeadline tag s)) :=
  congrArg done (if_pos ((isRaised_iff _ _).mpr hr))

/-- The deadline of a record that is not QUEUED only passes (R12). -/
theorem takeDeadline_kept {r : TrackRecord} (h : findRecord tag s = some r) (hst : r.state ≠ .queued) :
    takeDeadline tag s = deadlineTaken tag s := by
  simp only [takeDeadline, h, if_neg hst]
  rfl

/-- A QUEUED record whose claim is in transmission stays QUEUED; the frame is not offered again (R27, R29). -/
theorem takeDeadline_onLine {r : TrackRecord} (h : findRecord tag s = some r) (hst : r.state = .queued)
    (hc : claimInTransmission tag s = true) : takeDeadline tag s = abortClaim tag (deadlineTaken tag s) := by
  simp only [takeDeadline, h, if_pos hst, hc, if_true]
  rfl

/-- The state in which the entry of a bid that is taken back is removed (R29). -/
def bidTakenBack (tag : Tag) (s : State) : State :=
  updateRecord tag TrackRecord.toUnbid (abortClaim tag (deadlineTaken tag s))

/-- A QUEUED record whose claim is not in transmission returns to UNBID and loses its entry (R29). -/
theorem takeDeadline_back {r : TrackRecord} (h : findRecord tag s = some r) (hst : r.state = .queued)
    (hc : claimInTransmission tag s = false) : takeDeadline tag s = removeBidEntry r (bidTakenBack tag s) := by
  simp only [takeDeadline, h, if_pos hst, hc, Bool.false_eq_true, if_false]
  rfl

theorem bidTakenBack_build (c : BuildId) : (bidTakenBack tag s).build c = s.build c :=
  build_congr rfl rfl c

/-! ### A contest lost (R28) -/

/-- The state in which the entry of a lost contest is removed (R28). -/
def contestLost (r : TrackRecord) (c : Heard) (s : State) : State :=
  updateRecord r.tag (fun r => { r.dropEntryRef with state := .lost }) (updateRecord r.tag (TrackRecord.hear c) s)

theorem contestLost_build (r : TrackRecord) (c : Heard) (d : BuildId) : (contestLost r c s).build d = s.build d :=
  build_congr rfl rfl d

/-- After the removal of its entry a lost record's claim is aborted where it was QUEUED, and CLAIM LOST counted (R28). -/
theorem loseClaim_eq (r : TrackRecord) (c : Heard) (s : State) :
    loseClaim r (updateRecord r.tag (TrackRecord.hear c) s) =
      count .claimLost (if r.state = .queued then abortClaim r.tag (removeBidEntry r (contestLost r c s))
        else removeBidEntry r (contestLost r c s)) := rfl

theorem loseClaim_build (r : TrackRecord) (c : Heard) (d : BuildId) :
    (loseClaim r (updateRecord r.tag (TrackRecord.hear c) s)).build d =
      (removeBidEntry r (contestLost r c s)).build d := by
  rw [loseClaim_eq, count_build]
  split
  · rw [abortClaim_build]
  · rfl

end Sys2Proof.Machine

open Sys2Proof Sys2Proof.Machine

/-- Settles O60: the first part by `recompute_removes` and the lemmas on runs of removals, the second by the equation of
each command. -/
theorem recomputationRebuildsThePlan : Obligations.RecomputationRebuildsThePlan := by
  constructor
  · intro s b hnodup
    obtain ⟨w, hw, _, hsweep⟩ := recompute_removes b s
    have hplan := recompute_plan hnodup
    have hplanned := recompute_planned b s
    have hbuild : ∀ c, (recompute b s).build c = w.build c := fun c => by
      rw [hsweep]; split <;> simp
    have hqueue : (recompute b s).txQueue = w.txQueue := by rw [hsweep]; split <;> simp
    have hpick : (recompute b s).pick = w.pick := by rw [hsweep]; split <;> simp
    have hspare (tag : Tag) : Spares tag w (recompute b s) :=
      spares_of_eq tag (by rw [hsweep]; split <;> simp) hqueue
    have hgone : (s.build b).plan.filter (fun e => decide (e ∉ ((recompute b s).build b).plan)) =
        (s.build b).falls s.line := by
      rw [hplan]
      exact (standing_fallen_eq _ _ _ hnodup).2
    have hwithdraws : Withdraws b s (recompute b s) := recompute_withdraws
    have htags : ((((s.build b).falls s.line).map (Removal.withdrawn .withdrawn)).map fun r => r.entry.tag).Nodup := by
      rw [List.map_map]
      exact hnodup.sublist ((fallen_sublist _ _ _ _).map _)
    refine ⟨_, _, rfl, recompute_recomputed hnodup, ?_, ?_, rfl, ?_, ?_, ?_, ?_, ?_, hwithdraws.other,
      hwithdraws.eq⟩
    · intro i
      rw [hwithdraws.built, hplanned]
      exact stacked_carries _ _ i
    · rw [hplanned, hplan, stacked_cases]
    · rw [hgone]
      have hb := hw.build
      rw [← hbuild, List.foldl_map] at hb
      rw [hb]
      rfl
    · intro e he hwon
      rw [hgone] at he
      have hmem : Removal.withdrawn .withdrawn e ∈ ((s.build b).falls s.line).map (Removal.withdrawn .withdrawn) :=
        List.mem_map_of_mem he
      have hne : e.state ≠ .contested := by simp [hwon]
      refine ⟨by rw [hpick]; exact hw.not_picked hmem hne, fun hst hroom => ?_⟩
      rw [hqueue]
      refine hw.miss_held hst ?_ hmem hne
      have := (fallen_sublist s.line (s.build b).heightLimit (s.build b).built (s.build b).plan).length_le
      rw [List.length_map]
      exact (Nat.add_le_add_left this _).trans hroom
    · intro e he hcontested
      rw [hgone] at he
      exact (hw.loses htags (List.mem_map_of_mem he) hcontested).congr (.refl _ _) (hspare _)
    · intro hne
      rw [hgone] at hne
      rw [hsweep, if_neg hne]
      simp
    · intro hnone
      rw [hgone] at hnone
      rw [hsweep, if_pos hnone]
      exact hw.nothing (by rw [hnone]; rfl)
  · intro s cmd b tag e hnodup he hcmd
    have ht := findEntry_tag he
    subst ht
    rcases hcmd with ⟨hcmd, -, p, hp, rfl⟩ | ⟨rfl, hraised, hc, r, o, hr, hst, hbid, rfl⟩ | ⟨rfl, f, rest, c, r, o, hrx,
      hk, htag, hc, hr, hst, hbid, rfl, hbest, hown⟩
    · obtain ⟨k, m, c, hg, hraised⟩ : ∃ k m c, GivesUp e.tag cmd k m c ∧ EventRaised s k e.tag := by
        rcases hcmd with ⟨rfl, h⟩ | ⟨rfl, h⟩
        · exact ⟨_, _, _, .absent, h⟩
        · exact ⟨_, _, _, .lapsed, h⟩
      refine ⟨_, exec_givesUp hg hraised hp he, ?_⟩
      have hb : (beforeGivingUp k c e.tag s).build p.build = s.build p.build := build_congr rfl rfl _
      have h := withdrawAlone_recomputed (b := p.build) (s := beforeGivingUp k c e.tag s) m e (by rwa [hb])
      rw [hb] at h
      exact (build_congr (s := withdrawAlone p.build m e (beforeGivingUp k c e.tag s)) rfl rfl p.build) ▸ h
    · refine ⟨_, exec_sendDeadline hraised, ?_⟩
      have hb := bidTakenBack_build (s := s) (tag := e.tag) o.build
      have he' : findEntry o.build r.tag (bidTakenBack e.tag s) = some e := by
        rw [findEntry_congr hb, findRecord_tag _ _ hr]
        exact he
      have h := takeOut_recomputed (b := o.build) (s := bidTakenBack e.tag s) e (by rwa [hb])
      rw [hb] at h
      rw [takeDeadline_back hr hst hc, removeBidEntry_bid hbid, removeContested_entry he']
      exact (build_congr (s := recompute o.build (takeOut o.build e (bidTakenBack e.tag s))) rfl rfl o.build) ▸ h
    · subst hc
      rw [← heardOf_eq] at hbest hown
      refine ⟨showBeacons (claim s), rfl, ?_⟩
      obtain ⟨u, hu⟩ : ∃ u, u = { s with rxBuffer := rest } := ⟨_, rfl⟩
      have hub : u.build o.build = s.build o.build := by rw [hu]; exact build_congr rfl rfl _
      have hrt : r.tag = e.tag := findRecord_tag _ _ hr
      have hb : (contestLost r (heardOf f) u).build o.build = s.build o.build := (contestLost_build r _ _).trans hub
      have he' : findEntry o.build r.tag (contestLost r (heardOf f) u) = some e := by
        rw [findEntry_congr hb, hrt]
        exact he
      have hrun : claim s = loseClaim r (updateRecord r.tag (TrackRecord.hear (heardOf f)) u) := by
        rw [claim_heard hrx hk, htag, hrt, ← hu]
        exact hearClaim_loses (by rw [hu]; exact hr) hbest hst hbid (by rw [hu]; exact hown)
      have h := takeOut_recomputed (b := o.build) (s := contestLost r (heardOf f) u) e (by rwa [hb])
      rw [hb, ← removeContested_entry he', ← removeBidEntry_bid hbid, ← loseClaim_build, ← hrun] at h
      have hline : (contestLost r (heardOf f) u).line = s.line := by rw [hu]; rfl
      rw [hline] at h
      exact (build_congr (s := claim s) rfl rfl o.build) ▸ h
end

section
/-!
One entry taken out by a command (chapters 1, 2 and 6): the throttle as entries leave the pick order list (R37), the
entry that is gone, and the record and claim that are left. O19, O20 and O27 are assembled from these.
-/
namespace Sys2Proof.Machine

variable {b : BuildId} {s t u : State} {tag : Tag} {e : PlanEntry}

/-- A command's next state is the state it ends in with the beacon lines shown. -/
theorem showBeacons_of_eq (h : t = u) : showBeacons t = { u with beacons := (showBeacons t).beacons } := by
  subst h
  rfl

/-! ### The throttle as entries leave (R37) -/

/-- The list length down to which a THROTTLED station stays THROTTLED (R37). -/
def State.liftAt (s : State) : Nat := s.own2.throttleOn - s.own2.hyst

theorem PlanFrame.liftAt (h : PlanFrame s t) : t.liftAt = s.liftAt := by rw [State.liftAt, State.liftAt, h.own2]

/-- The throttle follows the length of the list from s to t. -/
def ThrottleFollows (s t : State) : Prop := t.throttled = true ↔ s.throttled = true ∧ s.liftAt < t.pick.length

/-- An entry that leaves the list lifts the throttle down to the limit (R37). -/
theorem leavePick_throttled (h : ∃ p ∈ s.pick, p.tag = tag) : ThrottleFollows s (leavePick tag s) := by
  have hany : s.pick.any (fun p => p.tag == tag) = true := by simpa using h
  obtain ⟨v, hv⟩ : ∃ v, v = unregisterPick tag { s with pick := s.pick.filter (fun p => !(p.tag == tag)) } := ⟨_, rfl⟩
  have hrun : leavePick tag s = throttleAtLeave v := by rw [hv]; exact if_pos hany
  have ht : v.throttled = s.throttled := by rw [hv]; rfl
  have hl : v.liftAt = s.liftAt := by rw [hv]; rfl
  unfold ThrottleFollows
  rw [hrun, throttleAtLeave, ← ht, ← hl]
  by_cases hlift : v.throttled = true ∧ v.pick.length ≤ v.liftAt
  · rw [if_pos (by simpa [State.liftAt] using hlift)]
    simp [hlift.1, hlift.2]
  · rw [if_neg (by simpa [State.liftAt] using hlift)]
    constructor
    · exact fun h => ⟨h, Nat.lt_of_not_le fun hle => hlift ⟨h, hle⟩⟩
    · exact fun h => h.1

theorem leavePick_absent (h : ¬ ∃ p ∈ s.pick, p.tag = tag) : leavePick tag s = s := by
  have hany : ¬ s.pick.any (fun p => p.tag == tag) = true := by simpa using h
  exact if_neg hany

/-- From a state whose throttle agrees with the limit, the throttle follows the list. -/
theorem leavePick_follows (h : s.throttled = true → s.liftAt < s.pick.length) : ThrottleFollows s (leavePick tag s) := by
  by_cases hp : ∃ p ∈ s.pick, p.tag = tag
  · exact leavePick_throttled hp
  · rw [leavePick_absent hp]
    exact ⟨fun ht => ⟨ht, h ht⟩, fun ht => ht.1⟩

theorem ThrottleFollows.trans (h : ThrottleFollows s t) (k : ThrottleFollows t u) (hl : t.liftAt = s.liftAt)
    (hle : u.pick.length ≤ t.pick.length) : ThrottleFollows s u := by
  unfold ThrottleFollows at h k ⊢
  rw [k, h, hl]
  constructor
  · exact fun hs => ⟨hs.1.1, hs.2⟩
  · exact fun hs => ⟨⟨hs.1, hs.2.trans_le hle⟩, hs.2⟩

theorem throttleFollows_of_eq (ht : t.throttled = s.throttled) (hp : t.pick = s.pick)
    (h : s.throttled = true → s.liftAt < s.pick.length) : ThrottleFollows s t := by
  unfold ThrottleFollows
  rw [ht, hp]
  exact ⟨fun hs => ⟨hs, h hs⟩, fun hs => hs.1⟩

theorem unbackRecord_throttled (tag : Tag) : (unbackRecord tag s).throttled = s.throttled := by
  unfold unbackRecord
  repeat' split
  all_goals simp

theorem unbackRecord_pick (tag : Tag) : (unbackRecord tag s).pick = s.pick := by
  unfold unbackRecord
  repeat' split
  all_goals simp

theorem takeOut_throttled : (takeOut b e s).throttled = s.throttled := by simp [takeOut]
theorem takeOut_pick : (takeOut b e s).pick = s.pick := by simp [takeOut]
theorem takeOut_liftAt : (takeOut b e s).liftAt = s.liftAt := (takeOut_withdraws (b := b) e).frame.liftAt

theorem Removal.run_follows (r : Removal) (h : s.throttled = true → s.liftAt < s.pick.length) :
    ThrottleFollows s (r.run b s) := by
  have hleave (e : PlanEntry) : ThrottleFollows s (leavePick e.tag (takeOut b e s)) := by
    have := leavePick_follows (s := takeOut b e s) (tag := e.tag)
      (by rwa [takeOut_throttled, takeOut_liftAt, takeOut_pick])
    unfold ThrottleFollows at this ⊢
    rwa [takeOut_throttled, takeOut_liftAt] at this
  cases r with
  | withdrawn m e =>
    simp only [Removal.run, withdrawEntry]
    cases e.state
    · exact throttleFollows_of_eq (by rw [unbackRecord_throttled, takeOut_throttled])
        (by rw [unbackRecord_pick, takeOut_pick]) h
    · simpa [ThrottleFollows] using hleave e
    · simpa [ThrottleFollows] using hleave e
  | dropped e => exact hleave e

theorem Removes.follows {l : List Removal} (h : Removes b s l t) (hs : s.throttled = true → s.liftAt < s.pick.length) :
    ThrottleFollows s t := by
  induction h with
  | refl => exact throttleFollows_of_eq rfl rfl hs
  | replan f _ ih => simpa [ThrottleFollows] using ih
  | remove r h ih =>
    have hl := h.withdraws.frame.liftAt
    refine ih.trans (r.run_follows fun ht => ?_) hl r.withdraws.pick.length_le
    rw [hl]
    exact (ih.mp ht).2

theorem recompute_follows (b : BuildId) (hs : s.throttled = true → s.liftAt < s.pick.length) :
    ThrottleFollows s (recompute b s) := by
  obtain ⟨w, hw, _, h⟩ := recompute_removes b s
  rw [h]
  have := hw.follows hs
  split
  · exact this
  · simpa [ThrottleFollows] using this

/-- A withdrawn case that has a pick entry lifts the throttle down to the limit (R37, R86, R87). -/
theorem withdrawAlone_throttled (m : MissReason) (he : e.state ≠ .contested) (h : ∃ p ∈ s.pick, p.tag = e.tag) :
    ThrottleFollows s (withdrawAlone b m e s) := by
  have hw : withdrawEntry b m e s = offer (.miss e.tag m) (leavePick e.tag (takeOut b e s)) := by
    unfold withdrawEntry
    cases hst : e.state
    · exact absurd hst he
    · rfl
    · rfl
  have hfirst : ThrottleFollows s (withdrawEntry b m e s) := by
    have := leavePick_throttled (s := takeOut b e s) (tag := e.tag) (by rwa [takeOut_pick])
    rw [hw]
    simpa [ThrottleFollows, takeOut_throttled, takeOut_liftAt] using this
  have hl := (withdrawEntry_withdraws (b := b) (s := s) m e).frame.liftAt
  refine hfirst.trans (recompute_follows b fun ht => ?_) hl recompute_withdraws.pick.length_le
  rw [hl]
  exact (hfirst.mp ht).2

/-! ### The entry that is gone -/

theorem withdrawAlone_not_planned (m : MissReason) : ∀ x ∈ ((withdrawAlone b m e s).build b).plan, x.tag ≠ e.tag := by
  refine recompute_withdraws.not_planned _ ?_
  have hb := (Removal.withdrawn m e).run_build (b := b) (s := s)
  intro x hx
  rw [show withdrawEntry b m e s = (Removal.withdrawn m e).run b s from rfl, hb] at hx
  simpa [Removal.entry] using (List.mem_filter.mp hx).2

/-- A WON or PLACING case that is withdrawn alone has left both lists, and a MISS is held where there was room (R86). -/
theorem withdrawAlone_placed (m : MissReason) (he : e.state ≠ .contested) :
    (∀ p ∈ (withdrawAlone b m e s).pick, p.tag ≠ e.tag) ∧ (withdrawAlone b m e s).sweep.isSome = true ∧
      (s.station ≠ .silent → s.txQueue.length < 8 →
        TxFrame.fresh (.miss e.tag m) ∈ (withdrawAlone b m e s).txQueue) := by
  have hrec : Withdraws b (withdrawEntry b m e s) (withdrawAlone b m e s) := recompute_withdraws
  exact ⟨hrec.not_picked _ ((Removal.withdrawn m e).run_not_picked he),
    hrec.sweep (Removal.withdrawn m e).run_sweep,
    fun hst hl => hrec.kept _ (withdrawEntry_placed m e he hst hl).2.2.1 rfl⟩

theorem removeContested_not_planned (b : BuildId) (tag : Tag) :
    ∀ x ∈ ((removeContested b tag s).build b).plan, x.tag ≠ tag := by
  unfold removeContested
  split
  · next hnone =>
    intro x hx ht
    have := List.find?_eq_none.mp hnone x hx
    simp [ht] at this
  · next e he =>
    have ht := findEntry_tag he
    subst ht
    exact recompute_withdraws.not_planned _ (takeOut_not_planned e)

theorem removeBidEntry_not_planned {r : TrackRecord} {o : OwnBid} (h : r.bid = some o) :
    ∀ x ∈ ((removeBidEntry r s).build o.build).plan, x.tag ≠ r.tag := by
  rw [removeBidEntry_bid h]
  exact removeContested_not_planned _ _

/-- The removal of a bid's entry is a withdrawal on the own bid's build; with no own bid nothing changes. -/
theorem removeBidEntry_withdraws {r : TrackRecord} {o : OwnBid} (h : r.bid = some o) :
    Withdraws o.build s (removeBidEntry r s) := by
  rw [removeBidEntry_bid h]
  exact removeContested_withdraws _

theorem removeBidEntry_none {r : TrackRecord} (h : r.bid = none) : removeBidEntry r s = s := by
  simp [removeBidEntry, h]

/-- Whatever the own bid, there is a build whose withdrawal the removal is. -/
theorem removeBidEntry_some_withdraws (r : TrackRecord) (s : State) : ∃ b, Withdraws b s (removeBidEntry r s) := by
  cases h : r.bid with
  | none => exact ⟨.A, by rw [removeBidEntry_none h]; exact .refl _ _⟩
  | some o => exact ⟨o.build, removeBidEntry_withdraws h⟩

/-- Builds other than the own bid's stay as they are. -/
theorem removeBidEntry_build_other (r : TrackRecord) (c : BuildId) (h : ∀ o, r.bid = some o → o.build ≠ c) :
    (removeBidEntry r s).build c = s.build c := by
  cases hb : r.bid with
  | none => rw [removeBidEntry_none hb]
  | some o => exact (removeBidEntry_withdraws hb).other c (Ne.symm (h o hb))

/-- A tag with no own claim held has none after a withdrawal. -/
theorem Withdraws.no_own (h : Withdraws b s t) (hn : ∀ f ∈ s.txQueue, f.isOwnClaim tag = false) :
    ∀ f ∈ t.txQueue, f.isOwnClaim tag = false := by
  intro f hf
  by_contra ho
  rw [Bool.not_eq_false] at ho
  obtain ⟨g, hg, hbody, hlinked, _⟩ := h.claims f hf (isClaim_of_isOwnClaim ho)
  have : g.isOwnClaim tag = f.isOwnClaim tag := by simp [TxFrame.isOwnClaim, hbody, hlinked]
  rw [hn g hg, ho] at this
  exact Bool.false_ne_true this

/-! ### The record whose deadline is taken -/

theorem deadlineTaken_record {r : TrackRecord} (h : findRecord tag s = some r) :
    findRecord tag (deadlineTaken tag s) = some { r with deadlinePassed := true } := by
  have := findRecord_updateRecord (s := unregister .sendDeadline tag s) tag
    (fun r => { r with deadlinePassed := true }) (fun _ => rfl)
  rw [deadlineTaken, this]
  exact congrArg (Option.map _) h

theorem bidTakenBack_record {r : TrackRecord} (h : findRecord tag s = some r) :
    findRecord tag (bidTakenBack tag s) = some { r with deadlinePassed := true, state := .unbid, bid := none } := by
  have := findRecord_updateRecord (s := abortClaim tag (deadlineTaken tag s)) tag TrackRecord.toUnbid (fun _ => rfl)
  rw [bidTakenBack, this]
  exact congrArg (Option.map TrackRecord.toUnbid) (deadlineTaken_record h)

/-- A taken send deadline is registered no more (R12). -/
theorem takeDeadline_positions (tag : Tag) (s : State) :
    ∀ q ∈ (takeDeadline tag s).positions, ¬ (q.kind = .sendDeadline ∧ q.tag = tag) := by
  have hgone : ∀ q ∈ (deadlineTaken tag s).positions, ¬ (q.kind = .sendDeadline ∧ q.tag = tag) := by
    intro q hq
    simpa [Position.is, ← not_and_or] using (List.mem_filter.mp hq).2
  cases hr : findRecord tag s with
  | none =>
    have : takeDeadline tag s = deadlineTaken tag s := by simp only [takeDeadline, hr]; rfl
    rwa [this]
  | some r =>
    by_cases hst : r.state = .queued
    · cases hc : claimInTransmission tag s with
      | true => rw [takeDeadline_onLine hr hst hc]; exact hgone
      | false =>
        rw [takeDeadline_back hr hst hc]
        obtain ⟨b, hw⟩ := removeBidEntry_some_withdraws r (bidTakenBack tag s)
        exact fun q hq => hgone q (hw.positions.subset hq)
    · rw [takeDeadline_kept hr hst]
      exact hgone

theorem contestLost_record {r : TrackRecord} {o : OwnBid} {c : Heard} (h : findRecord r.tag s = some r)
    (hbid : r.bid = some o) (hbest : ∀ b, r.best = some b → BetterClaim c b.score b.station) :
    findRecord r.tag (contestLost r c s) =
      some { r with state := .lost, best := some c, bid := some { o with hasEntry := false } } := by
  have h1 := findRecord_updateRecord (s := s) r.tag (TrackRecord.hear c) (hear_tag c)
  have h2 := findRecord_updateRecord (s := updateRecord r.tag (TrackRecord.hear c) s) r.tag
    (fun r => { r.dropEntryRef with state := .lost }) (fun _ => rfl)
  rw [contestLost, h2, h1, h, Option.map_some, Option.map_some, hear_better hbest]
  simp [TrackRecord.dropEntryRef, hbid]

end Sys2Proof.Machine

open Sys2Proof Sys2Proof.Machine

/-- Settles O19: the withdrawal by `withdrawAlone_placed`, the throttle by `withdrawAlone_throttled`. -/
theorem unpickedCasesAreGivenUp : Obligations.UnpickedCasesAreGivenUp := by
  refine ⟨fun s tag p => findPick_iff tag p, fun s b tag e => findEntry_iff b tag e, ?_⟩
  intro s tag p e hp he hwon hst hroom cmd k reason hcmd hraised
  obtain ⟨c, hg⟩ : ∃ c, GivesUp tag cmd k reason c := by
    rcases hcmd with ⟨rfl, rfl, rfl⟩ | ⟨rfl, rfl, rfl⟩
    · exact ⟨_, .absent⟩
    · exact ⟨_, .lapsed⟩
  have htag := findEntry_tag he
  subst htag
  have hne : e.state ≠ .contested := by simp [hwon]
  obtain ⟨u, hu⟩ : ∃ u, u = beforeGivingUp k c e.tag s := ⟨_, rfl⟩
  have hub (d : BuildId) : u.build d = s.build d := by rw [hu]; exact build_congr rfl rfl d
  obtain ⟨t, ht⟩ : ∃ t, t = withdrawAlone p.build reason e u := ⟨_, rfl⟩
  have hw : Withdraws p.build u t := ht ▸ withdrawAlone_withdraws reason e
  obtain ⟨hpick, hsweep, hmiss⟩ := withdrawAlone_placed (b := p.build) (s := u) reason hne
  rw [← ht] at hpick hsweep hmiss
  have hthrottle : ThrottleFollows u t := by
    rw [ht]
    refine withdrawAlone_throttled reason hne ⟨p, ?_, ?_⟩
    · rw [hu]
      exact List.mem_of_find?_eq_some hp
    · simpa using List.find?_some hp
  refine ⟨showBeacons t, ?_, hpick, ?_, ?_, hsweep, ?_, ?_, fun d hd => ?_, ?_, ?_, ?_⟩
  · rw [exec_givesUp hg hraised hp he, ht, hu]
  · rw [showBeacons_build, ht]
    exact withdrawAlone_not_planned reason
  · exact hmiss (by rw [hu]; exact hst) (by rw [hu]; exact hroom)
  · rw [showBeacons_counters, hw.counters, hu]
    cases hg <;> rfl
  · rw [showBeacons_counters, hw.counters, hu]
    cases hg <;> rfl
  · rw [showBeacons_build, hw.other d hd, hub]
  · rw [showBeacons_build, hw.built, hub]
  · rw [hu] at hthrottle
    exact hthrottle
  · have := hw.eq
    rw [hu] at this
    exact showBeacons_of_eq this

/-- Settles O20, from the three rules of `takeDeadline`. -/
theorem sendDeadlineTakesBackTheBid : Obligations.SendDeadlineTakesBackTheBid := by
  intro s tag r hraised hr
  refine ⟨_, exec_sendDeadline hraised, fun hst => ?_, fun hst hc => ?_, fun hst hc => ?_, takeDeadline_positions tag s⟩
  · rw [takeDeadline_kept hr hst]
    exact ⟨deadlineTaken_record hr, rfl⟩
  · rw [takeDeadline_onLine hr hst hc]
    exact ⟨deadlineTaken_record hr, fun f hf ho => (abortClaim_own tag f hf ho).2, rfl⟩
  · rw [takeDeadline_back hr hst hc]
    obtain ⟨b, hw⟩ := removeBidEntry_some_withdraws r (bidTakenBack tag s)
    have hrec := hw.records tag _ (bidTakenBack_record hr) (by simp) (by simp)
    have hown : ∀ f ∈ (bidTakenBack tag s).txQueue, f.isOwnClaim tag = false :=
      abortClaim_none (s := deadlineTaken tag s) hc
    refine ⟨hrec, hw.no_own hown, fun o ho => ?_, fun c hc => ?_, ?_⟩
    · rw [showBeacons_build, ← findRecord_tag _ _ hr]
      exact removeBidEntry_not_planned ho
    · rw [showBeacons_build, removeBidEntry_build_other r c hc, bidTakenBack_build]
    · exact showBeacons_of_eq hw.eq

/-- Settles O27: the record is LOST before its entry is removed, and a removal keeps LOST records. -/
theorem betterClaimLosesTheContest : Obligations.BetterClaimLosesTheContest := by
  intro s f rest tag c r o e hrx hk htag hc hr hst hbid he hbest hown
  rw [← heardOf_eq] at hc
  have hrt : r.tag = tag := findRecord_tag _ _ hr
  obtain ⟨u, hu⟩ : ∃ u, u = { s with rxBuffer := rest } := ⟨_, rfl⟩
  have hru : findRecord r.tag u = some r := by rw [hrt, hu]; exact hr
  obtain ⟨v, hv⟩ : ∃ v, v = contestLost r c u := ⟨_, rfl⟩
  have hvb (d : BuildId) : v.build d = s.build d := by
    rw [hv, contestLost_build, hu]
    exact build_congr rfl rfl d
  have hw : Withdraws o.build v (removeBidEntry r v) := removeBidEntry_withdraws hbid
  have hrun : claim s = count .claimLost (if r.state = .queued then abortClaim r.tag (removeBidEntry r v)
      else removeBidEntry r v) := by
    rw [claim_heard hrx hk, ← htag, ← hc, ← hrt, ← hu, hv, ← loseClaim_eq]
    exact hearClaim_loses hru hbest hst hbid (by rw [hu]; exact hown)
  obtain ⟨w, hwdef⟩ : ∃ w, w = if r.state = .queued then abortClaim r.tag (removeBidEntry r v)
      else removeBidEntry r v := ⟨_, rfl⟩
  rw [← hwdef] at hrun
  have hw' : Withdraws o.build v w := by
    rw [hwdef]
    split
    · exact hw.trans (abortClaim_withdraws _)
    · exact hw
  have hplan : (w.build o.build).plan = ((removeBidEntry r v).build o.build).plan := by
    rw [hwdef]
    split
    · rw [abortClaim_build]
    · rfl
  have hsweep : (removeBidEntry r v).sweep.isSome = true := by
    have hev : findEntry o.build r.tag v = some e := by rw [findEntry_congr (hvb _), hrt]; exact he
    rw [removeBidEntry_bid hbid, removeContested_entry hev]
    exact recompute_withdraws.sweep (takeOut_sweep e)
  refine ⟨showBeacons (claim s), rfl, ?_, ?_, fun d hd => ?_, fun hq g hg ho => ?_, ?_, ?_, ?_⟩
  · have h1 := contestLost_record hru hbid hbest
    rw [← hv] at h1
    have h2 := hw'.records _ _ h1 (by simp) (by simp)
    rw [hrun, ← hrt]
    exact h2
  · rw [showBeacons_build, hrun, count_build, hplan, ← hrt]
    exact removeBidEntry_not_planned hbid
  · rw [showBeacons_build, hrun, count_build, hw'.other d hd, hvb]
  · rw [hrun, showBeacons_txQueue, count_txQueue, hwdef, if_pos hq] at hg
    exact (abortClaim_own _ _ hg (hrt ▸ ho)).1
  · rw [hrun, showBeacons_counters]
    show saturate255 w.counters.claimLost = _
    rw [hw'.counters, hv, hu]
    rfl
  · rw [hrun, showBeacons_sweep, count_sweep, hwdef]
    split
    · rwa [abortClaim_sweep]
    · exact hsweep
  · have := hw'.eq
    rw [hv, hu] at this
    rw [hrun]
    exact showBeacons_of_eq (congrArg (count .claimLost) this)
end

section
/-!
The close of a contest (R14, R31 to R34): the claims counted at a close, what the close decision does to each kind of
record, and what the record's leaving writes. O21, O22 and O23 are assembled from these.
-/
namespace Sys2Proof.Machine

variable {b : BuildId} {s t u : State} {tag : Tag} {r : TrackRecord} {o : OwnBid}

/-! ### The claims counted at a close (R31, R33) -/

theorem hearAll_cons (c : Heard) (l : List Heard) (r : TrackRecord) : hearAll (c :: l) r = hearAll l (r.hear c) := rfl

/-- Hearing claims writes no more than best heard (R13). -/
theorem hear_eq (c : Heard) (r : TrackRecord) : r.hear c = { r with best := (r.hear c).best } := by
  unfold TrackRecord.hear
  split <;> rfl

theorem hearAll_eq (l : List Heard) (r : TrackRecord) : hearAll l r = { r with best := (hearAll l r).best } := by
  induction l generalizing r with
  | nil => rfl
  | cons c l ih =>
    rw [hearAll_cons, ih, hear_eq]

theorem hearAll_tag (l : List Heard) (r : TrackRecord) : (hearAll l r).tag = r.tag := by rw [hearAll_eq]
theorem hearAll_state (l : List Heard) (r : TrackRecord) : (hearAll l r).state = r.state := by rw [hearAll_eq]
theorem hearAll_bid (l : List Heard) (r : TrackRecord) : (hearAll l r).bid = r.bid := by rw [hearAll_eq]
theorem hearAll_desc (l : List Heard) (r : TrackRecord) : (hearAll l r).desc = r.desc := by rw [hearAll_eq]

theorem outbid_iff (hb : r.bid = some o) :
    outbid s r = true ↔ ∃ c, r.best = some c ∧ BetterClaim c o.score s.number := by
  unfold outbid
  cases r.best <;> simp [beatsOwn_iff, hb]

/-- One claim more beats the own bid as best heard when it beats it itself or best heard did before (R13, R33). -/
theorem outbid_hear (hb : r.bid = some o) (c : Heard) :
    outbid s (r.hear c) = true ↔ outbid s r = true ∨ BetterClaim c o.score s.number := by
  have hb' : (r.hear c).bid = some o := by rw [hear_eq]; exact hb
  rw [outbid_iff hb, outbid_iff hb']
  by_cases hc : c.beatsBest r.best = true
  · rw [hear_better ((beatsBest_iff _ _).mp hc)]
    have hbest := (beatsBest_iff _ _).mp hc
    simp only [Option.some.injEq, exists_eq_left']
    refine ⟨.inr, ?_⟩
    rintro (⟨x, hx, hbetter⟩ | h)
    · have := hbest x hx
      simp only [BetterClaim] at this hbetter ⊢
      omega
    · exact h
  · have hr : r.hear c = r := by simp [TrackRecord.hear, hc]
    rw [hr]
    refine ⟨.inl, ?_⟩
    rintro (h | h)
    · exact h
    · cases hbest : r.best with
      | none => simp [Heard.beatsBest, hbest] at hc
      | some x =>
        have hn : ¬ BetterClaim c x.score x.station := by
          rw [hbest] at hc
          exact fun hx => hc ((beats_iff _ _).mpr hx)
        refine ⟨x, rfl, ?_⟩
        simp only [BetterClaim] at hn h ⊢
        omega

theorem outbid_hearAll (hb : r.bid = some o) (l : List Heard) :
    outbid s (hearAll l r) = true ↔ outbid s r = true ∨ ∃ c ∈ l, BetterClaim c o.score s.number := by
  induction l generalizing r with
  | nil => simp [hearAll]
  | cons c l ih =>
    have hb' : (r.hear c).bid = some o := by rw [hear_eq]; exact hb
    rw [hearAll_cons, ih hb', outbid_hear hb, or_assoc, List.exists_mem_cons_iff]

/-- The claims of a tag in the receive buffer (R31). -/
theorem mem_bufferedClaims (c : Heard) : c ∈ bufferedClaims tag s ↔
    ∃ f ∈ s.rxBuffer, kindOf f = 1 ∧ wordAt f.payload 0 = tag ∧ heardOf f = c := by
  simp [bufferedClaims, and_assoc]

/-- A record is outbid at its close by best heard or by a claim still in the receive buffer (R31, R33). -/
theorem outbid_atClose (hb : r.bid = some o) :
    outbid s (hearAll (bufferedClaims tag s) r) = true ↔ Outbid s tag r o := by
  rw [outbid_hearAll hb, outbid_iff hb]
  simp only [mem_bufferedClaims]
  constructor
  · rintro (h | ⟨_, ⟨f, hf, hk, ht, rfl⟩, h⟩)
    · exact .inl h
    · exact .inr ⟨f, hf, hk, ht, h⟩
  · rintro (h | ⟨f, hf, hk, ht, h⟩)
    · exact .inl h
    · exact .inr ⟨_, ⟨f, hf, hk, ht, rfl⟩, h⟩

/-! ### What the record's leaving writes (R14, R27) -/

/-- What becomes of the claim of a record that leaves (R27). -/
def unlinkFrame (tag : Tag) (f : TxFrame) : TxFrame :=
  if f.isOwnClaim tag then { f with noRetry := true, linked := false } else f

theorem unlinkFrame_body (tag : Tag) (f : TxFrame) : (unlinkFrame tag f).body = f.body := by
  unfold unlinkFrame
  split <;> rfl

theorem unlinkFrame_not_own (tag : Tag) (f : TxFrame) : (unlinkFrame tag f).isOwnClaim tag = false := by
  unfold unlinkFrame
  split
  · unfold TxFrame.isOwnClaim
    split <;> simp
  · next h => simpa using h

theorem removeRecord_eq (tag : Tag) (s : State) : removeRecord tag s = { s with
    positions := s.positions.filter (fun p => !(p.is .sendDeadline tag || p.is .closePoint tag))
    txQueue := s.txQueue.map (unlinkFrame tag)
    track := s.track.filter (fun x => x.tag != tag)
    sweep := (removeRecord tag s).sweep } := rfl

theorem removeRecord_bodies (tag : Tag) (s : State) :
    (removeRecord tag s).txQueue.map TxFrame.body = s.txQueue.map TxFrame.body := by
  rw [removeRecord_eq, List.map_map]
  exact List.map_congr_left fun f _ => unlinkFrame_body tag f

theorem removeRecord_no_own (tag : Tag) (s : State) : ∀ f ∈ (removeRecord tag s).txQueue, f.isOwnClaim tag = false := by
  rw [removeRecord_eq]
  intro f hf
  obtain ⟨g, _, rfl⟩ := List.mem_map.mp hf
  exact unlinkFrame_not_own tag g

theorem removeRecord_positions (tag : Tag) (s : State) :
    ∀ q ∈ (removeRecord tag s).positions, q.tag = tag → q.kind ≠ .closePoint ∧ q.kind ≠ .sendDeadline := by
  rw [removeRecord_eq]
  intro q hq ht
  have := (List.mem_filter.mp hq).2
  simp [Position.is, ht] at this
  exact this.symm

/-- The throttle after an entry has joined (R37, R38; log entry 24). -/
theorem throttleAtJoin_eq (s : State) : throttleAtJoin s = { s with
    throttled := s.throttled || (s.own2.throttleOn != 0 && decide (s.own2.throttleOn ≤ s.pick.length))
    throttleSeen := s.throttleSeen ||
      (!s.throttled && s.own2.throttleOn != 0 && decide (s.own2.throttleOn ≤ s.pick.length)) } := by
  unfold throttleAtJoin
  generalize hlong : (s.own2.throttleOn != 0 && decide (s.own2.throttleOn ≤ s.pick.length)) = long
  rw [Bool.and_assoc, hlong]
  split
  · next h =>
    have hon : (s.throttled || long) = true ∧ (s.throttleSeen || (!s.throttled && long)) = true := by
      revert h
      cases s.throttled <;> cases long <;> simp
    rw [hon.1, hon.2]
  · next h =>
    have hkept : (s.throttled || long) = s.throttled ∧ (s.throttleSeen || (!s.throttled && long)) = s.throttleSeen := by
      revert h
      cases s.throttled <;> cases long <;> simp
    rw [hkept.1, hkept.2]

/-- A case that joins the pick order list (R37, R38, R99, R100). -/
theorem joinPick_eq (tag : Tag) (b : BuildId) (stamp : Count) (s : State) : joinPick tag b stamp s = { s with
    pick := s.pick ++ [⟨tag, b, stamp, stamp + s.own1.eyeDist, stamp + s.own1.eyeDist - s.own1.eyeTol,
      stamp + s.own1.eyeDist + s.own1.eyeTol, .awaitEye⟩]
    positions := s.positions ++ [⟨.eyeWindowEnd, tag, stamp + s.own1.eyeDist + s.own1.eyeTol,
      reached s.belt (stamp + s.own1.eyeDist + s.own1.eyeTol)⟩]
    throttled := s.throttled || (s.own2.throttleOn != 0 && decide (s.own2.throttleOn ≤ s.pick.length + 1))
    throttleSeen := s.throttleSeen ||
      (!s.throttled && s.own2.throttleOn != 0 && decide (s.own2.throttleOn ≤ s.pick.length + 1)) } := by
  rw [joinPick, throttleAtJoin_eq]
  simp only [register, List.length_append, List.length_singleton]
  rfl

/-! ### The close of a record (R31 to R34) -/

/-- The state in which a record closes: a raised send deadline is taken first (R4; log entry 4). -/
def beforeClose (tag : Tag) (s : State) : State :=
  if isRaised .sendDeadline tag s then takeDeadline tag s else s

theorem exec_closePoint (hr : EventRaised s .closePoint tag) :
    exec (.closePoint tag) s = .next (showBeacons (closeRecord tag (beforeClose tag s))) :=
  congrArg done (if_pos ((isRaised_iff _ _).mpr hr))

theorem closeRecord_found (h : findRecord tag s = some r) :
    closeRecord tag s = removeRecord tag (closeDecision (hearAll (bufferedClaims tag s) r) s) := by
  simp [closeRecord, h]

/-- The deadline of a record that is not QUEUED changes no more than that it has passed (R12). -/
theorem beforeClose_kept (h : findRecord tag s = some r) (hst : r.state ≠ .queued) :
    ∃ d, findRecord tag (beforeClose tag s) = some { r with deadlinePassed := d } ∧
      (beforeClose tag s).track.filter (fun x => x.tag != tag) = s.track.filter (fun x => x.tag != tag) ∧
      beforeClose tag s = { s with positions := (beforeClose tag s).positions, track := (beforeClose tag s).track } := by
  unfold beforeClose
  split
  · rw [takeDeadline_kept h hst]
    exact ⟨true, deadlineTaken_record h, updateRecord_others _ _ (fun _ => rfl), rfl⟩
  · exact ⟨r.deadlinePassed, h, rfl, rfl⟩

/-- A QUEUED record is still QUEUED, or back in UNBID, when its close is taken (R4, R29). -/
theorem beforeClose_queued (h : findRecord tag s = some r) (hst : r.state = .queued) :
    ∃ r', findRecord tag (beforeClose tag s) = some r' ∧ (r'.state = .queued ∨ r'.state = .unbid) := by
  unfold beforeClose
  split
  · cases hc : claimInTransmission tag s with
    | true =>
      rw [takeDeadline_onLine h hst hc]
      exact ⟨_, deadlineTaken_record h, .inl hst⟩
    | false =>
      rw [takeDeadline_back h hst hc]
      obtain ⟨b, hw⟩ := removeBidEntry_some_withdraws r (bidTakenBack tag s)
      exact ⟨_, hw.records tag _ (bidTakenBack_record h) (by simp) (by simp), .inr rfl⟩
  · exact ⟨r, h, .inl hst⟩

theorem beforeClose_none (h : findRecord tag s = none) : findRecord tag (beforeClose tag s) = none := by
  unfold beforeClose
  split
  · have hrun : takeDeadline tag s = deadlineTaken tag s := by simp only [takeDeadline, h]; rfl
    have := findRecord_updateRecord (s := unregister .sendDeadline tag s) tag
      (fun r => { r with deadlinePassed := true }) (fun _ => rfl)
    rw [hrun, deadlineTaken, this]
    exact congrArg (Option.map _) h
  · exact h

/-- Nothing joins the pick order list, and no tag changes, at a send deadline. -/
theorem takeDeadline_lists (tag : Tag) (s : State) : (takeDeadline tag s).pick.Sublist s.pick ∧
    (takeDeadline tag s).track.map TrackRecord.tag = s.track.map TrackRecord.tag := by
  have htags (g : TrackRecord → TrackRecord) (hg : ∀ r, (g r).tag = r.tag) (v : State) :
      (updateRecord tag g v).track.map TrackRecord.tag = v.track.map TrackRecord.tag := by
    rw [updateRecord_track, List.map_map]
    refine List.map_congr_left fun r _ => ?_
    simp only [Function.comp]
    split <;> simp [hg]
  have hstart : (deadlineTaken tag s).track.map TrackRecord.tag = s.track.map TrackRecord.tag :=
    htags (fun r => { r with deadlinePassed := true }) (fun _ => rfl) _
  cases hr : findRecord tag s with
  | none =>
    have : takeDeadline tag s = deadlineTaken tag s := by simp only [takeDeadline, hr]; rfl
    rw [this]
    exact ⟨.refl _, hstart⟩
  | some r =>
    by_cases hst : r.state = .queued
    · cases hc : claimInTransmission tag s with
      | true =>
        rw [takeDeadline_onLine hr hst hc]
        exact ⟨.refl _, hstart⟩
      | false =>
        rw [takeDeadline_back hr hst hc]
        obtain ⟨b, hw⟩ := removeBidEntry_some_withdraws r (bidTakenBack tag s)
        refine ⟨hw.pick, ?_⟩
        rw [hw.tags, bidTakenBack, htags TrackRecord.toUnbid (fun _ => rfl)]
        exact hstart
    · rw [takeDeadline_kept hr hst]
      exact ⟨.refl _, hstart⟩

theorem beforeClose_lists (tag : Tag) (s : State) : (beforeClose tag s).pick.Sublist s.pick ∧
    (beforeClose tag s).track.map TrackRecord.tag = s.track.map TrackRecord.tag := by
  unfold beforeClose
  split
  · exact takeDeadline_lists tag s
  · exact ⟨.refl _, rfl⟩

/-! ### The close decision (R32 to R34) -/

/-- UNBID and LOST records, and an UNBACKED one that may not be won, are only removed (R32, R34). -/
theorem closeDecision_removed (h : r.state = .unbid ∨ r.state = .lost ∨ (r.state = .unbacked ∧ r.bid = some o ∧
    (claimInTransmission r.tag s = true ∨ outbid s r = true))) : closeDecision r s = s := by
  rcases h with h | h | ⟨h, hb, hc⟩
  · simp [closeDecision, h]
  · simp [closeDecision, h]
  · have hc' : (claimInTransmission r.tag s || outbid s r) = true := by simpa using hc
    simp [closeDecision, h, hb, hc']

theorem closeDecision_queued (h : r.state = .queued) :
    closeDecision r s = removeBidEntry r (abortClaim r.tag s) := by
  simp [closeDecision, h]

theorem closeDecision_outbid (h : r.state = .sent) (hb : r.bid = some o) (ho : outbid s r = true) :
    closeDecision r s = count .claimLost (removeBidEntry r s) := by
  simp [closeDecision, h, hb, ho]

theorem closeDecision_won (h : r.state = .sent) (hb : r.bid = some o) (ho : outbid s r = false) :
    closeDecision r s = winCase r o.build s := by
  simp [closeDecision, h, hb, ho]

theorem closeDecision_fresh (h : r.state = .unbacked) (hb : r.bid = some o)
    (hc : claimInTransmission r.tag s = false) (ho : outbid s r = false) :
    closeDecision r s = freshPlacement r o.build s := by
  simp [closeDecision, h, hb, hc, ho]

/-- Only a SENT or UNBACKED record whose own bid no counted claim beats joins the pick order list (R33). -/
theorem closeDecision_joins (r : TrackRecord) (s : State) : (closeDecision r s).pick.Sublist s.pick ∨
    ((r.state = .sent ∨ r.state = .unbacked) ∧ ∃ o, r.bid = some o ∧ outbid s r = false) := by
  have hremove (v : State) : (removeBidEntry r v).pick.Sublist v.pick := by
    obtain ⟨b, hw⟩ := removeBidEntry_some_withdraws r v
    exact hw.pick
  cases hst : r.state with
  | unbid => exact .inl (by rw [closeDecision_removed (o := ⟨.A, 0, false⟩) (.inl hst)])
  | lost => exact .inl (by rw [closeDecision_removed (o := ⟨.A, 0, false⟩) (.inr (.inl hst))])
  | queued => exact .inl (by rw [closeDecision_queued hst]; exact hremove _)
  | sent =>
    cases hb : r.bid with
    | none => exact .inl (by simp [closeDecision, hst, hb])
    | some o =>
      cases ho : outbid s r with
      | true => exact .inl (by rw [closeDecision_outbid hst hb ho]; exact hremove s)
      | false => exact .inr ⟨.inl rfl, o, rfl, rfl⟩
  | unbacked =>
    cases hb : r.bid with
    | none => exact .inl (by simp [closeDecision, hst, hb])
    | some o =>
      cases ho : outbid s r with
      | true => exact .inl (by rw [closeDecision_removed (.inr (.inr ⟨hst, hb, .inr ho⟩))])
      | false => exact .inr ⟨.inr rfl, o, rfl, rfl⟩

end Sys2Proof.Machine

open Sys2Proof Sys2Proof.Machine

/-- Settles O23: what joins the list is SENT or UNBACKED with a bid that is not outbid, by `closeDecision_joins`, and the
send deadline taken before it has left such a record as it was. -/
theorem onlyTheBestClaimIsWon : Obligations.OnlyTheBestClaimIsWon := by
  intro s t tag hexec hnot ⟨p, hp, hpt⟩
  have hgone (l : List PickEntry) (hl : l.Sublist s.pick) : p ∉ l := fun hpl => hnot p (hl.subset hpl) hpt
  by_cases hraised : EventRaised s .closePoint tag
  case neg =>
    have hskip : exec (.closePoint tag) s = .next (showBeacons s) :=
      congrArg done (if_neg (fun h => hraised ((isRaised_iff _ _).mp h)))
    cases hskip.symm.trans hexec
    exact absurd hp (hgone _ (.refl _))
  cases (exec_closePoint hraised).symm.trans hexec
  obtain ⟨hpick, _⟩ := beforeClose_lists tag s
  cases hr0 : findRecord tag (beforeClose tag s) with
  | none =>
    have hrun : closeRecord tag (beforeClose tag s) = unregister .closePoint tag (beforeClose tag s) := by
      simp [closeRecord, hr0]
    rw [hrun] at hp
    exact absurd hp (hgone _ hpick)
  | some r0 =>
    rw [closeRecord_found hr0, showBeacons_pick, removeRecord_eq] at hp
    rcases closeDecision_joins (hearAll (bufferedClaims tag (beforeClose tag s)) r0) (beforeClose tag s) with
      hsub | ⟨hst, o, hbid, hout⟩
    · exact absurd hp (hgone _ (hsub.trans hpick))
    rw [hearAll_state] at hst
    rw [hearAll_bid] at hbid
    cases hr : findRecord tag s with
    | none => simp [beforeClose_none hr] at hr0
    | some r =>
      have hq : r.state ≠ .queued := fun hq => by
        obtain ⟨r', hr', hst'⟩ := beforeClose_queued hr hq
        cases hr0.symm.trans hr'
        rcases hst' with h | h <;> simp [h] at hst
      obtain ⟨d, hd, _, hs0⟩ := beforeClose_kept hr hq
      cases hr0.symm.trans hd
      have hout' : ¬ Outbid s tag r o := fun h => by
        have hb0 : ({ r with deadlinePassed := d } : TrackRecord).bid = some o := hbid
        rw [← Bool.not_eq_true, outbid_atClose hb0, hs0] at hout
        exact hout h
      exact ⟨r, o, rfl, hst, hbid, fun c hc hbetter => hout' (.inl ⟨c, hc, hbetter⟩),
        fun f hf hk ht hbetter => hout' (.inr ⟨f, hf, hk, ht, hbetter⟩)⟩
end

section
/-!
The closes of the table of R34, row by row: a won case, a record that is only removed, a withdrawn bid, a fresh
placement and a forfeit. O21 and O22 are assembled from these.
-/
namespace Sys2Proof.Machine

variable {b : BuildId} {s t u : State} {tag : Tag} {r : TrackRecord} {o : OwnBid}

/-- The close of a record that is not QUEUED decides on the state as it was, with the deadline marked (R4, R31). -/
theorem close_kept (h : findRecord tag s = some r) (hst : r.state ≠ .queued) :
    ∃ v q, v = { s with positions := v.positions, track := v.track } ∧
      v.track.filter (fun x => x.tag != tag) = s.track.filter (fun x => x.tag != tag) ∧
      q.tag = tag ∧ q.state = r.state ∧ q.bid = r.bid ∧ q.desc = r.desc ∧
      (∀ o, r.bid = some o → (outbid v q = true ↔ Outbid s tag r o)) ∧
      closeRecord tag (beforeClose tag s) = removeRecord tag (closeDecision q v) := by
  obtain ⟨d, hd, htrack, hv⟩ := beforeClose_kept h hst
  refine ⟨beforeClose tag s, hearAll (bufferedClaims tag (beforeClose tag s)) { r with deadlinePassed := d }, hv, htrack,
    ?_, by rw [hearAll_state], by rw [hearAll_bid], by rw [hearAll_desc], fun o hb => ?_, closeRecord_found hd⟩
  · rw [hearAll_tag]
    have ht : r.tag = tag := findRecord_tag _ _ h
    exact ht
  · rw [outbid_atClose (o := o) (by exact hb), hv]
    rfl

/-- What a removal of a contested entry offers is never a MISS of its own tag (R30, R32). -/
theorem removeContested_miss (b : BuildId) (tag : Tag) (m : MissReason)
    (h : TxBody.miss tag m ∈ (removeContested b tag s).txQueue.map TxFrame.body) :
    TxBody.miss tag m ∈ s.txQueue.map TxFrame.body := by
  unfold removeContested at h
  split at h
  · exact h
  · next e he =>
    have ht := findEntry_tag he
    subst ht
    obtain ⟨w, hw, _, hrun⟩ := recompute_removes b (takeOut b e s)
    have hq : (recompute b (takeOut b e s)).txQueue = w.txQueue := by rw [hrun]; split <;> simp
    obtain ⟨F, added, hqueue⟩ := hw.queueAfter
    rw [hq, hqueue.eq, List.map_append] at h
    rcases List.mem_append.mp h with h | h
    · rw [takeOut_txQueue] at h
      exact (hqueue.passes.bodies _).subset h
    · have hbody : TxBody.miss e.tag m ∈ added := by
        simpa [Function.comp_def, TxFrame.fresh] using h
      obtain ⟨m', e', heq, hr, _⟩ := hqueue.misses _ hbody
      obtain ⟨e'', hfall, hr'⟩ := List.mem_map.mp hr
      cases hr'
      have hplan := (fallen_sublist _ _ _ _).subset hfall
      exact absurd (TxBody.miss.inj heq).1.symm (takeOut_not_planned e e' hplan)

theorem removeBidEntry_miss (r : TrackRecord) (m : MissReason)
    (h : TxBody.miss r.tag m ∈ (removeBidEntry r s).txQueue.map TxFrame.body) :
    TxBody.miss r.tag m ∈ s.txQueue.map TxFrame.body := by
  cases hb : r.bid with
  | none => rwa [removeBidEntry_none hb] at h
  | some o =>
    rw [removeBidEntry_bid hb] at h
    exact removeContested_miss _ _ m h

/-- A change of record states, positions and claims alone: the frames held keep their bodies. -/
def ClaimsOnly (s v : State) : Prop :=
  v = { s with positions := v.positions, track := v.track, txQueue := v.txQueue } ∧
    (v.txQueue.map TxFrame.body).Sublist (s.txQueue.map TxFrame.body)

theorem ClaimsOnly.trans (h : ClaimsOnly s t) (k : ClaimsOnly t u) : ClaimsOnly s u :=
  ⟨by rw [k.1, h.1], k.2.trans h.2⟩

theorem abortClaim_claimsOnly (tag : Tag) (s : State) : ClaimsOnly s (abortClaim tag s) :=
  ⟨rfl, by rw [abortClaim_txQueue]; exact (abortFrame_passesOn tag).bodies _⟩

theorem deadlineTaken_claimsOnly (tag : Tag) (s : State) : ClaimsOnly s (deadlineTaken tag s) := ⟨rfl, .refl _⟩

theorem toUnbid_claimsOnly (tag : Tag) (s : State) : ClaimsOnly s (updateRecord tag TrackRecord.toUnbid s) :=
  ⟨rfl, .refl _⟩

theorem ClaimsOnly.build (h : ClaimsOnly s t) (c : BuildId) : t.build c = s.build c := by
  rw [h.1]
  exact build_congr rfl rfl c

/-- A withdrawn bid closes after its entry is removed from a state with the claim aborted (R32); a send deadline that is
raised too has taken the bid back before (R4). -/
theorem close_queued (h : findRecord tag s = some r) (hst : r.state = .queued) :
    ∃ v q, ClaimsOnly s v ∧ q.tag = tag ∧ q.bid = r.bid ∧
      closeRecord tag (beforeClose tag s) = removeRecord tag (removeBidEntry q v) := by
  have hrt := findRecord_tag _ _ h
  have hdecided (w : State) (q : TrackRecord) (hq : findRecord tag w = some q) (hqs : q.state = .queued) :
      closeRecord tag w = removeRecord tag
        (removeBidEntry (hearAll (bufferedClaims tag w) q) (abortClaim tag w)) := by
    rw [closeRecord_found hq, closeDecision_queued (by rw [hearAll_state, hqs]), hearAll_tag, findRecord_tag _ _ hq]
  unfold beforeClose
  split
  · cases hc : claimInTransmission tag s with
    | true =>
      have hrec : findRecord tag (abortClaim tag (deadlineTaken tag s)) = some { r with deadlinePassed := true } :=
        deadlineTaken_record h
      rw [takeDeadline_onLine h hst hc, hdecided _ _ hrec hst]
      exact ⟨_, _, ((deadlineTaken_claimsOnly tag s).trans (abortClaim_claimsOnly tag _)).trans
        (abortClaim_claimsOnly tag _), by rw [hearAll_tag]; exact hrt, by rw [hearAll_bid], rfl⟩
    | false =>
      rw [takeDeadline_back h hst hc]
      obtain ⟨b, hw⟩ := removeBidEntry_some_withdraws r (bidTakenBack tag s)
      have hrec := hw.records tag _ (bidTakenBack_record h) (by simp) (by simp)
      rw [closeRecord_found hrec, closeDecision_removed (o := ⟨.A, 0, false⟩) (.inl (by rw [hearAll_state]))]
      exact ⟨bidTakenBack tag s, r, ((deadlineTaken_claimsOnly tag s).trans (abortClaim_claimsOnly tag _)).trans
        (toUnbid_claimsOnly tag _), hrt, rfl, rfl⟩
  · rw [hdecided s r h hst]
    exact ⟨_, _, abortClaim_claimsOnly tag s, by rw [hearAll_tag]; exact hrt, by rw [hearAll_bid], rfl⟩

/-- A WON entry joins the list, its plan entry marked (R33). -/
theorem winCase_eq (r : TrackRecord) (b : BuildId) (s : State) :
    winCase r b s = joinPick r.tag b r.desc.stamp (updateBuild b (fun x =>
      { x with plan := x.plan.map (fun e => if e.tag = r.tag then { e with state := .won } else e) }) s) := by
  simp [winCase]

theorem buildCandidate_congr {d : CaseDesc} (hb : t.build b = s.build b) (hl : t.line = s.line) :
    buildCandidate t b d = buildCandidate s b d := by
  simp only [buildCandidate, hb, hl]

/-- With no place for it the case is FORFEIT (R34). -/
theorem freshPlacement_forfeit (h : (s.build b).state ≠ .opened ∨ s.credits b ≤ (s.build b).plan.length ∨
    buildCandidate s b r.desc = none) :
    freshPlacement r b s = count .forfeit (offer (.miss r.tag .forfeit) s) := by
  have hplace : (if (s.build b).state == .opened && (s.build b).plan.length < s.credits b
      then buildCandidate s b r.desc else none) = none := by
    split
    · next hc =>
      simp only [Bool.and_eq_true, beq_iff_eq, decide_eq_true_eq] at hc
      rcases h with h | h | h
      · exact absurd hc.1 h
      · omega
      · exact h
    · rfl
  simp only [freshPlacement, hplace]

/-- A fresh placement puts a WON entry on the plan list, and the case joins the pick order list (R34). -/
theorem freshPlacement_placed {c : Candidate} (hst : (s.build b).state = .opened)
    (hl : (s.build b).plan.length < s.credits b) (hc : buildCandidate s b r.desc = some c) :
    freshPlacement r b s = joinPick r.tag b r.desc.stamp (addEntry b (entryFor r.tag r.desc c .won) s) := by
  simp [freshPlacement, hst, hl, hc]

theorem removeRecord_tags (tag : Tag) (h : t.track.map TrackRecord.tag = s.track.map TrackRecord.tag) :
    (removeRecord tag t).track.map TrackRecord.tag =
      (s.track.filter (fun x => x.tag != tag)).map TrackRecord.tag := by
  have hmap (l : List TrackRecord) : (l.filter (fun x => x.tag != tag)).map TrackRecord.tag =
      (l.map TrackRecord.tag).filter (fun x => x != tag) := by
    rw [List.filter_map]
    rfl
  rw [removeRecord_eq, hmap, hmap, h]

/-- The close decision changes no tag of the track list. -/
theorem closeDecision_tags (r : TrackRecord) (s : State) :
    (closeDecision r s).track.map TrackRecord.tag = s.track.map TrackRecord.tag := by
  have hremove (v : State) : (removeBidEntry r v).track.map TrackRecord.tag = v.track.map TrackRecord.tag := by
    obtain ⟨b, hw⟩ := removeBidEntry_some_withdraws r v
    exact hw.tags
  have hfresh (b : BuildId) : (freshPlacement r b s).track = s.track := by
    simp only [freshPlacement]
    split
    · rw [joinPick_eq]; simp [addEntry]
    · simp
  unfold closeDecision
  split
  · rfl
  · rfl
  · exact hremove _
  · rfl
  · split
    · exact hremove s
    · rw [winCase_eq, joinPick_eq]; simp
  · rfl
  · split
    · rfl
    · rw [hfresh]

/-- A case that is won at the close: it joins the pick order list with its window, and the record leaves (R14, R33, R37,
R38, R99, R100). -/
theorem close_joins {w : State} (stamp : Count)
    (hw : w = { s with positions := w.positions, track := w.track, buildA := w.buildA, buildB := w.buildB })
    (htrack : w.track.filter (fun x => x.tag != tag) = s.track.filter (fun x => x.tag != tag))
    (ht : t = showBeacons (removeRecord tag (joinPick tag b stamp w))) :
    t.track = s.track.filter (fun x => x.tag != tag) ∧
      t.pick = s.pick ++ [⟨tag, b, stamp, stamp + s.own1.eyeDist, stamp + s.own1.eyeDist - s.own1.eyeTol,
        stamp + s.own1.eyeDist + s.own1.eyeTol, .awaitEye⟩] ∧
      (∃ q ∈ t.positions, q.kind = .eyeWindowEnd ∧ q.tag = tag ∧
        q.value = stamp + s.own1.eyeDist + s.own1.eyeTol) ∧
      (∀ c, t.build c = w.build c) ∧ t.txQueue.map TxFrame.body = s.txQueue.map TxFrame.body ∧
      (t.throttled = true ↔
        s.throttled = true ∨ (s.own2.throttleOn ≠ 0 ∧ s.own2.throttleOn ≤ s.pick.length + 1)) ∧
      (t.throttleSeen = true ↔ s.throttleSeen = true ∨ (s.throttled = false ∧ t.throttled = true)) ∧
      t = { s with
        track := t.track, pick := t.pick, positions := t.positions, buildA := t.buildA, buildB := t.buildB,
        txQueue := t.txQueue, sweep := t.sweep, throttled := t.throttled, throttleSeen := t.throttleSeen,
        beacons := t.beacons } := by
  have hpick : w.pick = s.pick := by rw [hw]
  have hown1 : w.own1 = s.own1 := by rw [hw]; rfl
  have hown2 : w.own2 = s.own2 := by rw [hw]; rfl
  have hthrottled : w.throttled = s.throttled := by rw [hw]
  have hseen : w.throttleSeen = s.throttleSeen := by rw [hw]
  have hqueue : w.txQueue = s.txQueue := by rw [hw]
  obtain ⟨j, hj⟩ : ∃ j, j = joinPick tag b stamp w := ⟨_, rfl⟩
  have hjeq := hj.trans (joinPick_eq tag b stamp w)
  rw [← hj] at ht
  have hon : t.throttled = true ↔
      s.throttled = true ∨ (s.own2.throttleOn ≠ 0 ∧ s.own2.throttleOn ≤ s.pick.length + 1) := by
    rw [ht, showBeacons_throttled, removeRecord_throttled, hjeq, hthrottled, hown2, hpick]
    simp
  refine ⟨?_, ?_, ?_, fun c => ?_, ?_, hon, ?_, ?_⟩
  · rw [ht, ← htrack, showBeacons_track, removeRecord_eq, hjeq]
  · rw [ht, showBeacons_pick, removeRecord_pick, hjeq, hpick, hown1]
  · refine ⟨⟨.eyeWindowEnd, tag, stamp + s.own1.eyeDist + s.own1.eyeTol,
      reached w.belt (stamp + s.own1.eyeDist + s.own1.eyeTol)⟩, ?_, rfl, rfl, rfl⟩
    rw [ht, showBeacons_positions, removeRecord_eq, hjeq, hown1]
    exact List.mem_filter.mpr ⟨List.mem_append_right _ List.mem_cons_self, by simp [Position.is]⟩
  · rw [ht, showBeacons_build, removeRecord_build, hj, joinPick_build]
  · rw [ht, showBeacons_txQueue, removeRecord_bodies, hjeq, hqueue]
  · rw [hon, ht, showBeacons_throttleSeen, removeRecord_throttleSeen, hjeq, hseen, hthrottled, hown2, hpick]
    simp only [Bool.or_eq_true, Bool.and_eq_true, Bool.not_eq_true', bne_iff_ne, decide_eq_true_eq]
    grind
  · rw [ht]
    refine (showBeacons_of_eq (removeRecord_eq tag j)).trans ?_
    rw [hjeq, hw]
    rfl

/-- The close of a record leaves the list without its tag and without its positions (R14). -/
theorem close_leaves (h : findRecord tag s = some r) :
    (closeRecord tag (beforeClose tag s)).track.map TrackRecord.tag =
        (s.track.filter (fun x => x.tag != tag)).map TrackRecord.tag ∧
      ∀ q ∈ (closeRecord tag (beforeClose tag s)).positions, q.tag = tag →
        q.kind ≠ .closePoint ∧ q.kind ≠ .sendDeadline := by
  obtain ⟨r0, hr0⟩ : ∃ r0, findRecord tag (beforeClose tag s) = some r0 := by
    by_cases hq : r.state = .queued
    · obtain ⟨r0, hr0, _⟩ := beforeClose_queued h hq
      exact ⟨r0, hr0⟩
    · obtain ⟨d, hd, _⟩ := beforeClose_kept h hq
      exact ⟨_, hd⟩
  rw [closeRecord_found hr0]
  exact ⟨removeRecord_tags tag ((closeDecision_tags _ _).trans (beforeClose_lists tag s).2),
    removeRecord_positions tag _⟩

/-- The row of R34 of a QUEUED record, and of a SENT one that is outbid: the entry is withdrawn, and a SENT record's loss
counted. -/
theorem close_withdrawn (h : findRecord tag s = some r) (hbid : r.bid = some o)
    (hrow : r.state = .queued ∨ (r.state = .sent ∧ Outbid s tag r o)) :
    ∃ v q, ClaimsOnly s v ∧ q.tag = tag ∧ q.bid = r.bid ∧ closeRecord tag (beforeClose tag s) =
      removeRecord tag (if r.state = .sent then count .claimLost (removeBidEntry q v) else removeBidEntry q v) := by
  rcases hrow with hst | ⟨hst, hout⟩
  · obtain ⟨v, q, hv, hqt, hqb, hrun⟩ := close_queued h hst
    exact ⟨v, q, hv, hqt, hqb, by rw [hrun, if_neg (by simp [hst])]⟩
  · obtain ⟨v, q, hv, _, hqt, hqs, hqb, _, hq, hrun⟩ := close_kept h (by simp [hst])
    have hqueue : v.txQueue = s.txQueue := by rw [hv]
    refine ⟨v, q, ⟨by rw [hv], by rw [hqueue]⟩, hqt, hqb, ?_⟩
    rw [hrun, closeDecision_outbid (hqs.trans hst) (hqb.trans hbid) ((hq o hbid).mpr hout), if_pos hst]

theorem claimInTransmission_congr (h : t.txQueue = s.txQueue) :
    claimInTransmission tag t = claimInTransmission tag s := by
  rw [claimInTransmission, claimInTransmission, h]

/-- The row of R34 of an UNBACKED record that may be won: a fresh placement is tried on the own bid's build. -/
theorem close_fresh (h : findRecord tag s = some r) (hst : r.state = .unbacked) (hbid : r.bid = some o)
    (hclaim : claimInTransmission tag s = false) (hout : ¬ Outbid s tag r o) :
    ∃ v q, v = { s with positions := v.positions, track := v.track } ∧
      v.track.filter (fun x => x.tag != tag) = s.track.filter (fun x => x.tag != tag) ∧ q.tag = tag ∧
      q.desc = r.desc ∧ closeRecord tag (beforeClose tag s) = removeRecord tag (freshPlacement q o.build v) := by
  obtain ⟨v, q, hv, htrack, hqt, hqs, hqb, hqd, hq, hrun⟩ := close_kept h (by simp [hst])
  refine ⟨v, q, hv, htrack, hqt, hqd, ?_⟩
  rw [hrun, closeDecision_fresh (hqs.trans hst) (hqb.trans hbid)]
  · rw [hqt, claimInTransmission_congr (s := s) (by rw [hv])]
    exact hclaim
  · rw [← Bool.not_eq_true, hq o hbid]
    exact hout

end Sys2Proof.Machine

open Sys2Proof Sys2Proof.Machine

/-- Settles O21: the decision is `winCase` on the state with the deadline marked, and `close_joins` says what follows. -/
theorem bestSentClaimWinsAtClose : Obligations.BestSentClaimWinsAtClose := by
  intro s tag r o hraised hr hst hbid hbest hbuffered
  obtain ⟨v, q, hv, htrack, hqt, hqs, hqb, hqd, hout, hrun⟩ := close_kept hr (by simp [hst])
  have hnout : outbid v q = false := by
    rw [← Bool.not_eq_true, hout o hbid]
    rintro (⟨c, hc, h⟩ | ⟨f, hf, hk, ht, h⟩)
    · exact hbest c hc h
    · exact hbuffered f hf hk ht h
  obtain ⟨w, hw⟩ : ∃ w, w = updateBuild o.build (fun x =>
    { x with plan := x.plan.map (fun e => if e.tag = tag then { e with state := .won } else e) }) v := ⟨_, rfl⟩
  have hvb (c : BuildId) : v.build c = s.build c := by rw [hv]; exact build_congr rfl rfl c
  have hweq : w = { v with buildA := w.buildA, buildB := w.buildB } := by rw [hw, updateBuild_eq]
  rw [closeDecision_won (hqs.trans hst) (hqb.trans hbid) hnout, winCase_eq, hqt, hqd, ← hw] at hrun
  obtain ⟨t, ht⟩ : ∃ t, t = showBeacons (removeRecord tag (joinPick tag o.build r.desc.stamp w)) := ⟨_, rfl⟩
  have hform : w = { s with
      positions := w.positions, track := w.track, buildA := w.buildA, buildB := w.buildB } := by rw [hweq, hv]
  have hwtrack : w.track.filter (fun x => x.tag != tag) = s.track.filter (fun x => x.tag != tag) := by
    rw [hweq]; exact htrack
  obtain ⟨h1, h2, h3, hb, h5, h6, h7, h8⟩ := close_joins r.desc.stamp hform hwtrack ht
  refine ⟨t, by rw [exec_closePoint hraised, hrun, ht], h1, h2, h3, ?_, ?_, fun c hc => ?_, h5, h6, h7, h8⟩
  · rw [ht]
    exact removeRecord_positions tag _
  · rw [hb, hw, updateBuild_build_same, hvb]
  · rw [hb, hw, updateBuild_build_other _ _ _ _ hc, hvb]

/-- Settles O22, row by row. -/
theorem unwonCasesLeaveAtClose : Obligations.UnwonCasesLeaveAtClose := by
  intro s tag r hraised hr
  obtain ⟨htags, hpos⟩ := close_leaves hr
  refine ⟨_, exec_closePoint hraised, htags, hpos, fun hrow => ?_, fun o hbid hrow => ?_,
    fun o hst hbid hclaim hout hnone hstation hroom => ?_, fun o c hst hbid hclaim hout hopen hlen hcand => ?_⟩
  · -- only removed
    have hq : r.state ≠ .queued := by rcases hrow with h | h | ⟨h, _⟩ <;> simp [h]
    obtain ⟨v, q, hv, htrack, hqt, hqs, hqb, _, hout, hrun⟩ := close_kept hr hq
    have hclaims := claimInTransmission_congr (t := v) (s := s) (tag := tag) (by rw [hv])
    have hdecision : closeDecision q v = v := by
      rcases hrow with h | h | ⟨h, o, hb, hrow⟩
      · exact closeDecision_removed (o := ⟨.A, 0, false⟩) (.inl (hqs.trans h))
      · exact closeDecision_removed (o := ⟨.A, 0, false⟩) (.inr (.inl (hqs.trans h)))
      · rw [← hout o hb, ← hclaims, ← hqt] at hrow
        exact closeDecision_removed (.inr (.inr ⟨hqs.trans h, hqb.trans hb, hrow⟩))
    rw [hrun, hdecision]
    refine ⟨htrack, ?_, ?_⟩
    · rw [showBeacons_txQueue, removeRecord_bodies, hv]
    · refine (showBeacons_of_eq (removeRecord_eq tag v)).trans ?_
      rw [hv]
      rfl
  · -- the entry withdrawn
    obtain ⟨v, q, hv, hqt, hqb, hrun⟩ := close_withdrawn hr hbid hrow
    have hw : Withdraws o.build v (removeBidEntry q v) := removeBidEntry_withdraws (hqb.trans hbid)
    obtain ⟨n, hn⟩ : ∃ n, n = if r.state = .sent then count .claimLost (removeBidEntry q v) else removeBidEntry q v :=
      ⟨_, rfl⟩
    have hncount : n = { removeBidEntry q v with counters := n.counters } := by
      rw [hn]; split <;> rfl
    have hlost : n.counters.claimLost =
        if r.state = .sent then min (s.counters.claimLost + 1) 255 else s.counters.claimLost := by
      have hkept : (removeBidEntry q v).counters.claimLost = s.counters.claimLost := by
        rw [hw.counters, hv.1]
      rw [hn, ← hkept]
      split <;> rfl
    have hnb (c : BuildId) : n.build c = (removeBidEntry q v).build c := by
      rw [hncount]
      exact build_congr rfl rfl c
    rw [hrun, ← hn]
    refine ⟨removeRecord_no_own tag n, ?_, fun c hc => ?_, ?_, fun m hm => ?_, hlost, ?_⟩
    · rw [showBeacons_build, removeRecord_build, hnb, ← hqt]
      exact removeBidEntry_not_planned (hqb.trans hbid)
    · rw [showBeacons_build, removeRecord_build, hnb, hw.other c hc, hv.build]
    · rw [showBeacons_pick, removeRecord_pick, hncount]
      have hvpick : v.pick = s.pick := by rw [hv.1]
      rw [← hvpick]
      exact hw.pick
    · rw [showBeacons_txQueue, removeRecord_bodies, hncount, ← hqt] at hm
      rw [← hqt]
      exact hv.2.subset (removeBidEntry_miss q m hm)
    · refine (showBeacons_of_eq (removeRecord_eq tag n)).trans ?_
      rw [hncount, hw.eq, hv.1]
      rfl
  · -- FORFEIT
    obtain ⟨v, q, hv, htrack, hqt, hqd, hrun⟩ := close_fresh hr hst hbid hclaim hout
    have hvb : v.build o.build = s.build o.build := by rw [hv]; exact build_congr rfl rfl _
    have hforfeit : freshPlacement q o.build v = count .forfeit (offer (.miss tag .forfeit) v) := by
      rw [freshPlacement_forfeit, hqt]
      rw [hvb, hqd, buildCandidate_congr hvb (by rw [hv]; rfl), hv]
      exact hnone
    rw [hforfeit, offer_room _ (by rw [hv]; exact hstation) (by rw [hv]; exact hroom)] at hrun
    rw [hrun]
    refine ⟨htrack, ?_, by rw [hv]; rfl, ?_⟩
    · rw [showBeacons_txQueue, removeRecord_bodies, hv]
      simp [TxFrame.fresh]
    · refine (showBeacons_of_eq (removeRecord_eq tag _)).trans ?_
      rw [hv]
      rfl
  · -- a fresh placement
    obtain ⟨v, q, hv, htrack, hqt, hqd, hrun⟩ := close_fresh hr hst hbid hclaim hout
    have hvb (d : BuildId) : v.build d = s.build d := by rw [hv]; exact build_congr rfl rfl d
    have hplaced : freshPlacement q o.build v =
        joinPick tag o.build r.desc.stamp (addEntry o.build (entryFor tag r.desc c .won) v) := by
      rw [freshPlacement_placed (c := c), hqt, hqd]
      · rw [hvb, hopen]
      · rw [hvb, hv]; exact hlen
      · rw [hqd, buildCandidate_congr (hvb _) (by rw [hv]; rfl)]; exact hcand
    obtain ⟨w, hw⟩ : ∃ w, w = addEntry o.build (entryFor tag r.desc c .won) v := ⟨_, rfl⟩
    have hweq : w = { v with buildA := w.buildA, buildB := w.buildB } := by rw [hw, addEntry, updateBuild_eq]
    rw [hplaced, ← hw] at hrun
    rw [hrun]
    have hform : w = { s with
        positions := w.positions, track := w.track, buildA := w.buildA, buildB := w.buildB } := by rw [hweq, hv]
    have hwtrack : w.track.filter (fun x => x.tag != tag) = s.track.filter (fun x => x.tag != tag) := by
      rw [hweq]; exact htrack
    obtain ⟨h1, h2, h3, hb, h5, h6, h7, h8⟩ :=
      close_joins (b := o.build) (tag := tag) r.desc.stamp hform hwtrack rfl
    refine ⟨h1, h2, h3, ⟨entryFor tag r.desc c .won, rfl, rfl, rfl, rfl, rfl, rfl, rfl, rfl, rfl, rfl, rfl, ?_⟩,
      fun d hd => ?_, h5, h6, h7, h8⟩
    · rw [hb, hw, addEntry_build, hvb]
    · rw [hb, hw, addEntry_other _ _ _ hd, hvb]
end

section
/-!
The tile grid: applying a placement tile by tile (O59), and the placement search as a fold that keeps the first of the
lowest scores (O58).
-/
namespace Sys2Proof.Machine

/-! ### The search (R76, R77) -/

/-- What the search has found after the candidates of a list: none, when none of them is feasible; otherwise the first of
those with the lowest score (R77). -/
def FirstBest (o : OrderHeader) (s : Surface) (c : CaseLoad) (test : Footprint → Bool) (l : List (Bool × Footprint))
    (r : Option Found) : Prop :=
  (r = none → ∀ x ∈ l, test x.2 = false) ∧
  ∀ b, r = some b → ∃ i : Nat, l[i]? = some (b.turned, b.foot) ∧ test b.foot = true ∧
    b.base = baseOver s.height b.foot ∧ b.score = scoreOf o s c.h b.foot ∧
    ∀ (j : Nat) (x : Bool × Footprint), l[j]? = some x → test x.2 = true →
      b.score ≤ scoreOf o s c.h x.2 ∧ (j < i → b.score < scoreOf o s c.h x.2)

/-- One more candidate that is not feasible changes nothing. -/
theorem FirstBest.skip {o : OrderHeader} {s : Surface} {c : CaseLoad} {test : Footprint → Bool}
    {l : List (Bool × Footprint)} {r : Option Found} {a : Bool × Footprint} (h : FirstBest o s c test l r)
    (ha : test a.2 = false) : FirstBest o s c test (l ++ [a]) r := by
  refine ⟨fun hr => ?_, fun b hb => ?_⟩
  · simp only [List.mem_append, List.mem_singleton]
    rintro x (hx | rfl)
    · exact h.1 hr x hx
    · exact ha
  · obtain ⟨i, hi, htest, hbase, hscore, hbest⟩ := h.2 b hb
    refine ⟨i, by grind, htest, hbase, hscore, fun j x hj hx => hbest j x ?_ hx⟩
    grind

/-- One more feasible candidate is kept where none was found or where it scores lower. -/
theorem FirstBest.keep {o : OrderHeader} {s : Surface} {c : CaseLoad} {test : Footprint → Bool}
    {l : List (Bool × Footprint)} {r : Option Found} {a : Bool × Footprint} (h : FirstBest o s c test l r)
    (ha : test a.2 = true) :
    FirstBest o s c test (l ++ [a])
      (keepFirst r (some ⟨a.1, a.2, baseOver s.height a.2, scoreOf o s c.h a.2⟩)) := by
  cases r with
  | none =>
    refine ⟨by simp [keepFirst], ?_⟩
    rintro b ⟨rfl⟩
    refine ⟨l.length, by simp, ha, rfl, rfl, fun j x hj hx => ?_⟩
    have hnone := h.1 rfl
    grind
  | some r =>
    obtain ⟨i, hi, htest, hbase, hscore, hbest⟩ := h.2 r rfl
    refine ⟨by simp only [keepFirst]; split <;> simp, fun b hb => ?_⟩
    simp only [keepFirst] at hb
    split at hb <;> cases hb
    · refine ⟨l.length, by simp, ha, rfl, rfl, fun j x hj hx => ?_⟩
      grind
    · refine ⟨i, by grind, htest, hbase, hscore, fun j x hj hx => ?_⟩
      grind

/-- The search finds the first candidate with the lowest score (R77). -/
theorem search_firstBest (v : LineSetup) (o : OrderHeader) (active : Bool) (s : Surface) (c : CaseLoad) (w d : Nat) :
    FirstBest o s c (feasible v o active s c) (candidates w d) (search v o active s c w d) := by
  unfold search
  induction candidates w d using List.reverseRecOn with
  | nil => exact ⟨by simp, by simp⟩
  | append_singleton l a ih =>
    rw [List.foldl_append, List.foldl_cons, List.foldl_nil, testCandidate]
    by_cases ha : feasible v o active s c a.2 = true
    · rw [if_pos ha]
      exact ih.keep ha
    · have hskip := ih.skip (a := a) (Bool.not_eq_true _ ▸ ha)
      rw [if_neg ha]
      cases hr : List.foldl (fun best cand => keepFirst best (testCandidate v o active s c cand)) none l <;>
        rw [hr] at hskip <;> exact hskip

/-! ### Candidates (R65, R66) -/

/-- The anchors of an orientation stand in tile-index order (R66). -/
theorem anchors_pairwise (fx fy : Nat) :
    (anchors fx fy).Pairwise (fun x y => x.row * 6 + x.col < y.row * 6 + y.col) := by
  rw [anchors, List.pairwise_filterMap]
  refine List.pairwise_lt_range.imp fun {a b} hab f hf g hg => ?_
  simp only [Option.ite_none_right_eq_some, Option.some.injEq] at hf hg
  obtain ⟨-, rfl⟩ := hf
  obtain ⟨-, rfl⟩ := hg
  dsimp only
  omega

/-- The candidates are the footprints on the deck, in both orientations where these differ (R66). -/
theorem mem_candidates {w d : Nat} (hw : 1 ≤ w) (hd : 1 ≤ d) (turned : Bool) (f : Footprint) :
    (turned, f) ∈ candidates w d ↔ f.col + f.fx ≤ 6 ∧ f.row + f.fy ≤ 4 ∧
      (turned = false ∧ f.fx = w ∧ f.fy = d ∨ turned = true ∧ w ≠ d ∧ f.fx = d ∧ f.fy = w) := by
  have hside : ∀ l : List Footprint, (turned, f) ∈ (if w = d then [] else l.map (fun g => (true, g))) ↔
      w ≠ d ∧ turned = true ∧ f ∈ l := by
    intro l
    split_ifs with h <;> simp [h, eq_comm, and_comm]
  simp only [candidates, List.mem_append, List.mem_map, Prod.mk.injEq, hside, mem_anchors hw hd, mem_anchors hd hw]
  grind

/-- Whatever the sides, a candidate's are those of the case, in one order or the other, and it lies on the deck. -/
theorem candidates_sides {w d : Nat} {x : Bool × Footprint} (h : x ∈ candidates w d) :
    x.2.fx = w ∧ x.2.fy = d ∨ x.2.fx = d ∧ x.2.fy = w := by
  have hanchor {a b : Nat} {f : Footprint} (hf : f ∈ anchors a b) : f.fx = a ∧ f.fy = b := by
    simp only [anchors, List.mem_filterMap, Option.ite_none_right_eq_some, Option.some.injEq] at hf
    obtain ⟨t, -, -, rfl⟩ := hf
    exact ⟨rfl, rfl⟩
  rw [candidates, List.mem_append] at h
  rcases h with h | h
  · obtain ⟨f, hf, rfl⟩ := List.mem_map.mp h
    exact .inl (hanchor hf)
  · split at h
    · cases h
    · obtain ⟨f, hf, rfl⟩ := List.mem_map.mp h
      exact .inr (hanchor hf)

/-- The candidates of orientation 0 stand before those of orientation 1, each in tile-index order (R66). -/
theorem candidates_pairwise (w d : Nat) :
    (candidates w d).Pairwise (fun x y => x.1 = false ∧ y.1 = true ∨
      x.1 = y.1 ∧ x.2.row * 6 + x.2.col < y.2.row * 6 + y.2.col) := by
  rw [candidates, List.pairwise_append]
  refine ⟨?_, ?_, ?_⟩
  · rw [List.pairwise_map]
    exact (anchors_pairwise w d).imp fun h => .inr ⟨rfl, h⟩
  · split
    · exact .nil
    · rw [List.pairwise_map]
      exact (anchors_pairwise d w).imp fun h => .inr ⟨rfl, h⟩
  · intro x hx y hy
    obtain ⟨f, -, rfl⟩ := List.mem_map.mp hx
    split at hy
    · cases hy
    · obtain ⟨g, -, rfl⟩ := List.mem_map.mp hy
      exact .inl ⟨rfl, rfl⟩

/-! ### The score (R68, R76) -/

/-- The sum of the voids, tile by tile of the grid (R68). -/
theorem gapOver_eq (h : Tiles Nat) (f : Footprint) :
    gapOver h f = ((List.finRange 24).map (fun i => if InFootprint f i then baseOver h f - h[i] else 0)).sum := by
  have hsum (l : List (Fin 24)) (g : Fin 24 → Nat) : ((l.filter (covers f)).map g).sum =
      (l.map (fun i => if InFootprint f i then g i else 0)).sum := by
    induction l with
    | nil => rfl
    | cons a l ih => by_cases ha : covers f a = true <;> simp [ha, ← covers_iff, ih]
  exact hsum _ _

/-- A footprint covers at most as many tiles as its sides say (R65). -/
theorem tilesOf_length_le (f : Footprint) : (tilesOf f).length ≤ f.fx * f.fy := by
  have hmap : ((tilesOf f).map (fun i => (i.val % 6, i.val / 6))).toFinset ⊆
      Finset.Ico f.col (f.col + f.fx) ×ˢ Finset.Ico f.row (f.row + f.fy) := by
    intro p hp
    simp only [List.mem_toFinset, List.mem_map, mem_tilesOf] at hp
    obtain ⟨i, ⟨h1, h2, h3, h4⟩, rfl⟩ := hp
    simp [h1, h2, h3, h4]
  have hnodup : ((tilesOf f).map (fun i => (i.val % 6, i.val / 6))).Nodup := by
    refine List.Nodup.map (fun i j hij => ?_) ((List.nodup_finRange 24).filter _)
    simp only [Prod.mk.injEq] at hij
    omega
  have hcard := Finset.card_le_card hmap
  rw [List.toFinset_card_of_nodup hnodup] at hcard
  simpa using hcard

/-- Under the support check the voids sum to at most the tolerance on each tile (R68, R69). -/
theorem gapOver_le {h : Tiles Nat} {f : Footprint} {tol : Nat} (hs : supported h f (baseOver h f) tol = true) :
    gapOver h f ≤ f.fx * f.fy * tol := by
  have hle : gapOver h f ≤ ((tilesOf f).map fun t => baseOver h f - h[t]).length • tol := by
    refine List.sum_le_card_nsmul _ _ fun n hn => ?_
    obtain ⟨i, hi, rfl⟩ := List.mem_map.mp hn
    have := (supported_iff h f _ tol).mp hs i ((mem_tilesOf f i).mp hi)
    omega
  rw [List.length_map, smul_eq_mul] at hle
  exact hle.trans (Nat.mul_le_mul_right _ (tilesOf_length_le f))

/-- The score of a feasible candidate within the ranges of R45, R69 and R7 (R76). -/
theorem scoreOf_bounds {v : LineSetup} {o : OrderHeader} {active : Bool} {s : Surface} {c : CaseLoad} {f : Footprint}
    (hf : feasible v o active s c f = true) (hlimit : o.heightLimit ≤ 400) (hp : o.priority ≤ 7)
    (htol : v.supportTol ≤ 4) (hx : f.fx ≤ 3) (hy : f.fy ≤ 3) (hh : 10 ≤ c.h) :
    640 ≤ scoreOf o s c.h f ∧ scoreOf o s c.h f ≤ 40512 := by
  simp only [feasible, standingChecks, heightCheck, Bool.and_eq_true, decide_eq_true_eq] at hf
  obtain ⟨⟨⟨⟨⟨⟨hsupported, hheight⟩, -⟩, -⟩, -⟩, -⟩, -⟩ := hf
  have hgap : gapOver s.height f ≤ 3 * 3 * 4 :=
    (gapOver_le hsupported).trans (Nat.mul_le_mul (Nat.mul_le_mul hx hy) htol)
  unfold scoreOf
  omega

/-! ### The candidate test (R67 to R75) -/

/-- The seven checks on the base that the candidate finds (R67 to R75). -/
theorem feasible_iff (v : LineSetup) (o : OrderHeader) (active : Bool) (s : Surface) (c : CaseLoad) (f : Footprint) :
    feasible v o active s c f = true ↔
      (∀ i : Fin 24, InFootprint f i → baseOver s.height f ≤ s.height[i] + v.supportTol) ∧
      (c.base = true → baseOver s.height f = 0) ∧
      ¬ (active = true ∧ c.base = false ∧ baseOver s.height f = 0 ∧ ∃ i : Fin 24, InFootprint f i ∧
        if o.reserveRight = true then 6 - o.reserve ≤ i.val % 6 else i.val % 6 < o.reserve) ∧
      baseOver s.height f + c.h ≤ o.heightLimit ∧
      (∀ i : Fin 24, InFootprint f i → shareOf c.weight f.tiles ≤ s.margin[i]) ∧
      s.weight + c.weight ≤ v.wmax * 10 ∧ cogCheck v s c.weight f = true := by
  simp only [feasible, standingChecks, heightCheck, weightCheck, Bool.and_eq_true, decide_eq_true_eq, supported_iff,
    loadCheck_iff, baseCheck_iff, reserveCheck_iff]
  tauto

end Sys2Proof.Machine

open Sys2Proof Sys2Proof.Machine

/-- Settles O58. -/
theorem searchFindsTheFirstBest : Obligations.SearchFindsTheFirstBest := by
  intro v o active s c w d
  obtain ⟨hnone, hsome⟩ := search_firstBest v o active s c w d
  refine ⟨fun r hr => ?_, hnone, fun hw hd => ⟨mem_candidates hw hd, candidates_pairwise w d⟩, ?_⟩
  · obtain ⟨i, hi, htest, hbase, hscore, hbest⟩ := hsome r hr
    refine ⟨⟨i, hi, htest, hbase, hscore, hbest⟩, fun hlimit hp htol hw hd hh => ?_⟩
    have hsides := candidates_sides (List.mem_of_getElem? hi)
    rw [hscore]
    exact scoreOf_bounds htest hlimit hp htol (by dsimp only at hsides; omega) (by dsimp only at hsides; omega) hh
  · rintro f base weight mx my hle hex rfl rfl rfl
    have hbase := baseOver_eq hle hex
    refine ⟨hbase, ?_, by rw [scoreOf, gapOver_eq, hbase]⟩
    rw [feasible_iff, cogCheck_iff, hbase]
    simp only [and_assoc]
    rfl

/-- Settles O59. -/
theorem applyStacksOneCase : Obligations.ApplyStacksOneCase := by
  intro s f h weight rating i
  simp only [← covers_iff]
  refine ⟨fun hi => ⟨?_, (baseOver_le _ f _).mp le_rfl i ((covers_iff f i).mp hi), ?_⟩, fun hi => ⟨?_, ?_⟩,
    rfl, rfl, rfl, rfl⟩
  all_goals
    simp only [Surface.apply, Fin.getElem_fin, Vector.getElem_ofFn, Fin.eta]
  · exact if_pos hi
  · exact if_pos hi
  · exact if_neg hi
  · exact if_neg hi
end

section
/-!
One run of the port arbiter (R109 to R112): the grants in their order, each with what it writes; the entry of the pick
order list that is granted is the first that may be placed (O57).
-/
namespace Sys2Proof.Machine

variable {s : State}

/-- A pick entry is offered to step 3 of the grant order exactly under the conditions of R110 and R97. -/
theorem placeable_iff (s : State) (p : PickEntry) (m : EyeMatch) (e : PlanEntry) :
    placeable s p = some (m, e) ↔ MayBePlaced s p m e := by
  have hopen : openWindow p = some m ↔ p.phase = .arrived m ∧ m.windowOpen = true := by
    unfold openWindow
    split
    · rename_i n h
      rw [h]
      split_ifs with hw
      · simp only [Option.some.injEq, PickPhase.arrived.injEq]
        exact ⟨fun h => ⟨h, h ▸ hw⟩, And.left⟩
      · simp only [PickPhase.arrived.injEq, false_iff]
        rintro ⟨rfl, h⟩
        exact hw h
    all_goals simp [*]
  have hready (y : PlanEntry) : readyCheck s.line (s.build p.build) y = true ↔
      baseOver (s.build p.build).built.height y.foot = y.base ∧
        ∀ i : Fin 24, covers y.foot i = true → y.base ≤ (s.build p.build).built.height[i] + s.line.supportTol := by
    simp only [readyCheck, Bool.and_eq_true, beq_iff_eq, supported_iff, covers_iff]
  unfold placeable
  split
  · rename_i n y hn hy
    simp only [Option.ite_none_right_eq_some, Option.some.injEq, Prod.mk.injEq, Bool.and_eq_true, Bool.or_eq_true,
      beq_iff_eq, Option.isNone_iff_eq_none, hready, MayBePlaced]
    rw [← and_assoc (a := p.phase = _), ← hopen, hn, hy]
    simp only [Option.some.injEq, and_assoc]
    constructor
    · rintro ⟨h1, h2, h3, h4, h5, rfl, rfl⟩
      exact ⟨rfl, rfl, h1, h2, h3, h4, h5⟩
    · rintro ⟨rfl, rfl, h1, h2, h3, h4, h5⟩
      exact ⟨h1, h2, h3, h4, h5, rfl, rfl⟩
  · rename_i hno
    simp only [reduceCtorEq, false_iff]
    rintro ⟨h1, h2, h3, -⟩
    exact hno m e (hopen.mpr ⟨h1, h2⟩) h3

/-- No entry of a list is offered when none of them may be placed. -/
theorem placeable_none {p : PickEntry} (h : ∀ m e, ¬ MayBePlaced s p m e) : placeable s p = none :=
  Option.eq_none_iff_forall_ne_some.mpr fun me hme => h me.1 me.2 ((placeable_iff s p _ _).mp hme)

/-- Step 3 of the grant order finds no entry when none of the list may be placed. -/
theorem firstPlace_none (h : ∀ p ∈ s.pick, ∀ m e, ¬ MayBePlaced s p m e) : firstPlace s = none := by
  rw [firstPlace, List.findSome?_eq_none_iff]
  intro p hp
  rw [placeable_none (h p hp), Option.map_none]

/-- Step 3 of the grant order finds the first entry of the list that may be placed. -/
theorem firstPlace_some {older newer : List PickEntry} {p : PickEntry} {m : EyeMatch} {e : PlanEntry}
    (hpick : s.pick = older ++ p :: newer) (hold : ∀ q ∈ older, ∀ m e, ¬ MayBePlaced s q m e)
    (hp : MayBePlaced s p m e) : firstPlace s = some (p, m, e) := by
  have hnone : older.findSome? (fun p => (placeable s p).map (fun me => (p, me.1, me.2))) = none := by
    rw [List.findSome?_eq_none_iff]
    intro q hq
    rw [placeable_none (hold q hq), Option.map_none]
  rw [firstPlace, hpick, List.findSome?_append, hnone, Option.none_or, List.findSome?_cons,
    (placeable_iff s p m e).mpr hp]
  rfl

/-- The arbiter grants a due scan first, build A before build B (R110). -/
theorem runArbiter_scan {b : BuildId} {k : ScanKind} (hready : portReady s = true) (hdue : (s.build b).scanDue = some k)
    (hfirst : b = .A ∨ s.buildA.scanDue = none) : runArbiter s = grantScan b k s := by
  rw [runArbiter, if_pos hready]
  cases b with
  | A =>
    have hA : s.buildA.scanDue = some k := hdue
    rw [hA]
  | B =>
    have hB : s.buildB.scanDue = some k := hdue
    have hA : s.buildA.scanDue = none := by simpa using hfirst
    rw [hA, hB]

/-- With no scan due a due swap is granted, build A before build B (R110). -/
theorem runArbiter_swap {b : BuildId} (hready : portReady s = true) (hA : s.buildA.scanDue = none)
    (hB : s.buildB.scanDue = none) (hdue : (s.build b).swapDue = true) (hfirst : b = .A ∨ s.buildA.swapDue = false) :
    runArbiter s = grantSwap b s := by
  cases b with
  | A =>
    have hswap : s.buildA.swapDue = true := hdue
    simp [runArbiter, hready, hA, hB, hswap]
  | B =>
    have hswapB : s.buildB.swapDue = true := hdue
    have hswapA : s.buildA.swapDue = false := by simpa using hfirst
    simp [runArbiter, hready, hA, hB, hswapA, hswapB]

/-- With no scan and no swap due the arbiter grants nothing out of RUN, or where step 3 finds no entry (R110). -/
theorem runArbiter_nothing (hA : s.buildA.scanDue = none) (hB : s.buildB.scanDue = none)
    (hsA : s.buildA.swapDue = false) (hsB : s.buildB.swapDue = false)
    (hno : s.station ≠ .run ∨ firstPlace s = none) : runArbiter s = s := by
  rcases hno with h | h <;> simp [runArbiter, hA, hB, hsA, hsB, h]

/-- With no scan and no swap due the arbiter grants a PLACE in RUN, for the entry that step 3 finds (R110). -/
theorem runArbiter_place {p : PickEntry} {m : EyeMatch} {e : PlanEntry} (hready : portReady s = true)
    (hA : s.buildA.scanDue = none) (hB : s.buildB.scanDue = none) (hsA : s.buildA.swapDue = false)
    (hsB : s.buildB.swapDue = false) (hrun : s.station = .run) (hfirst : firstPlace s = some (p, m, e)) :
    runArbiter s = grantPlace p m e s := by
  simp [runArbiter, hready, hA, hB, hsA, hsB, hrun, hfirst]

/-- A build holds an uncertain entry when a PLACING one carries the uncertain flag (R137). -/
theorem uncertainEntry_isSome (x : Build) :
    (uncertainEntry x).isSome = true ↔ ∃ e ∈ x.plan, e.state = .placing ∧ e.uncertain ≠ none := by
  simp [uncertainEntry, Option.isSome_iff_ne_none]

/-- What the grant of a scan writes (R111, R137). -/
theorem grantScan_eq (b : BuildId) (k : ScanKind) (s : State) :
    grantScan b k s = { s with
      buildA := (grantScan b k s).buildA, buildB := (grantScan b k s).buildB, seqCounter := s.seqCounter + 1
      inFlight := some ⟨.scan, s.seqCounter + 1, b, none, s.timeBase, s.own1.scanLimit * 100, false⟩
      utx := some (recordBytes 0x02 (s.seqCounter + 1) [if b = .A then 0 else 1]) } := by
  cases b <;> rfl

theorem grantScan_build_same (b : BuildId) (k : ScanKind) (s : State) :
    (grantScan b k s).build b = (s.build b).startScan k := by
  rw [grantScan, sendRequest_build, updateBuild_build_same]

theorem grantScan_build_other {b c : BuildId} (k : ScanKind) (s : State) (h : c ≠ b) :
    (grantScan b k s).build c = s.build c := by
  rw [grantScan, sendRequest_build, updateBuild_build_other _ _ _ _ h]

/-- What the grant of a swap writes (R111, R148). -/
theorem grantSwap_eq (b : BuildId) (s : State) :
    grantSwap b s = { s with
      buildA := (grantSwap b s).buildA, buildB := (grantSwap b s).buildB, seqCounter := s.seqCounter + 1
      inFlight := some ⟨.swap, s.seqCounter + 1, b, none, s.timeBase, s.own1.swapLimit * 1000, false⟩
      utx := some (recordBytes 0x03 (s.seqCounter + 1) [if b = .A then 0 else 1]) } := by
  cases b <;> rfl

theorem grantSwap_build_same (b : BuildId) (s : State) :
    (grantSwap b s).build b = { s.build b with swapDue := false, swapInFlight := true } := by
  rw [grantSwap, sendRequest_build, updateBuild_build_same]

theorem grantSwap_build_other {b c : BuildId} (s : State) (h : c ≠ b) : (grantSwap b s).build c = s.build c := by
  rw [grantSwap, sendRequest_build, updateBuild_build_other _ _ _ _ h]

/-- What the grant of a PLACE writes (R112). -/
theorem grantPlace_eq (p : PickEntry) (m : EyeMatch) (e : PlanEntry) (s : State) :
    grantPlace p m e s = { s with
      buildA := (grantPlace p m e s).buildA, buildB := (grantPlace p m e s).buildB, seqCounter := s.seqCounter + 1
      inFlight := some ⟨.place, s.seqCounter + 1, p.build, some p.tag, s.timeBase,
        (if s.own1.placeBase100 then 100 else 10) * s.own1.placeCount, false⟩
      utx := some (recordBytes 0x01 (s.seqCounter + 1) (placePayload p.build e m.capture))
      pick := s.pick.map (fun q => if q.tag = p.tag then { q with phase := .placing m } else q)
      positions := s.positions.filter (fun q => !(q.kind == .pickClose && q.tag == p.tag)) } := by
  simp only [← beq_iff_eq (α := Tag)]
  unfold grantPlace
  cases p.build <;> rfl

theorem grantPlace_build_same (p : PickEntry) (m : EyeMatch) (e : PlanEntry) (s : State) :
    (grantPlace p m e s).build p.build = { s.build p.build with
      plan := (s.build p.build).plan.map (fun x => if x.tag = p.tag then { x with state := .placing } else x) } := by
  simp only [grantPlace, sendRequest_build, unregister_build, setPhase_build, updateBuild_build_same, beq_iff_eq]

theorem grantPlace_build_other {p : PickEntry} {c : BuildId} (m : EyeMatch) (e : PlanEntry) (s : State)
    (h : c ≠ p.build) : (grantPlace p m e s).build c = s.build c := by
  simp only [grantPlace, sendRequest_build, unregister_build, setPhase_build, updateBuild_build_other _ _ _ _ h]

/-- The bytes of a request record (12 section 12.5). -/
theorem recordBytes_eq (kind seq : Byte) (p : List Byte) : recordBytes kind seq p =
    [0x7E, kind, seq, BitVec.ofNat 8 p.length] ++ p ++
      [(kind :: seq :: BitVec.ofNat 8 p.length :: p).foldl (fun c b =>
        Nat.repeat (fun x : Byte => if x.msb = true then (x <<< 1) ^^^ 7 else x <<< 1) 8 (c ^^^ b)) 0] := by
  rw [recordBytes, crcBody, crc8_eq]
  rfl

end Sys2Proof.Machine

open Sys2Proof Sys2Proof.Machine

/-- Settles O57, grant by grant. -/
theorem arbiterGrantsInOrder : Obligations.ArbiterGrantsInOrder := by
  refine ⟨recordBytes_eq, fun b e capture => by cases b <;> rfl, fun s hport hrobot hstation => ?_⟩
  have hready : portReady s = true := by
    rcases hstation with h | h | h <;> simp [portReady, hport, hrobot, h]
  refine ⟨_, rfl, ?_, fun b k hdue hfirst => ?_, fun hA hB =>
    ⟨fun b hdue hfirst => ?_, fun hsA hsB => ⟨fun hrun => ?_, fun hrun hnone => ?_, ?_⟩⟩⟩
  · exact runArbiter_frame s
  · rw [runArbiter_scan hready hdue hfirst]
    exact ⟨grantScan_eq b k s, ⟨_, uncertainEntry_isSome _, grantScan_build_same b k s⟩,
      fun c hc => grantScan_build_other k s hc⟩
  · rw [runArbiter_swap hready hA hB hdue hfirst]
    exact ⟨grantSwap_eq b s, grantSwap_build_same b s, fun c hc => grantSwap_build_other s hc⟩
  · exact runArbiter_nothing hA hB hsA hsB (.inl hrun)
  · exact runArbiter_nothing hA hB hsA hsB (.inr (firstPlace_none hnone))
  · intro hrun older p newer m e hpick hold hp
    have hrunp : runArbiter s = grantPlace p m e s :=
      runArbiter_place hready hA hB hsA hsB hrun (firstPlace_some hpick hold hp)
    rw [hrunp]
    exact ⟨grantPlace_eq p m e s, grantPlace_build_same p m e s, fun c hc => grantPlace_build_other m e s hc⟩
end

section
/-!
The build commands that fill and resume an order (O34, O35, O37) and the commands that are refused (O39): an accepted one
writes its build and answers, a refused one only answers.
-/
namespace Sys2Proof.Machine

variable {s t : State} {b : BuildId} {f : Frame} {rest : List Frame}

/-! ### Reports and replies (R42, R43) -/

/-- The greatest of a list's members and a start is the start or a member. -/
theorem foldl_max_mem (l : List Nat) (a : Nat) : l.foldl max a = a ∨ l.foldl max a ∈ l := by
  induction l generalizing a with
  | nil => exact .inl rfl
  | cons x l ih =>
    rw [List.foldl_cons, List.mem_cons]
    rcases ih (max a x) with h | h
    · rw [h]
      omega
    · exact .inr (.inr h)

/-- The greatest of a list's members and a start is at most a bound when they all are. -/
theorem foldl_max_le_iff (l : List Nat) (a n : Nat) : l.foldl max a ≤ n ↔ a ≤ n ∧ ∀ x ∈ l, x ≤ n := by
  induction l generalizing a with
  | nil => simp
  | cons x l ih => rw [List.foldl_cons, ih, List.forall_mem_cons, Nat.max_le, and_assoc]

/-- The greatest height is at most a bound when every tile's is (R42). -/
theorem greatestHeight_le (x : Surface) (n : Nat) : greatestHeight x ≤ n ↔ ∀ i : Fin 24, x.height[i] ≤ n := by
  rw [greatestHeight, foldl_max_le_iff]
  simp only [Nat.zero_le, true_and, Vector.mem_toList_iff, Vector.mem_iff_getElem]
  constructor
  · intro h i
    exact h _ ⟨i, i.isLt, rfl⟩
  · rintro h _ ⟨i, hi, rfl⟩
    exact h ⟨i, hi⟩

/-- The greatest height is a tile's (R42). -/
theorem greatestHeight_tile (x : Surface) : ∃ i : Fin 24, x.height[i] = greatestHeight x := by
  rcases foldl_max_mem x.height.toList 0 with h | h
  · have hle := (greatestHeight_le x (greatestHeight x)).mp le_rfl 0
    rw [greatestHeight, h] at hle ⊢
    exact ⟨0, Nat.le_zero.mp hle⟩
  · obtain ⟨i, hi, hx⟩ := Vector.mem_iff_getElem.mp (Vector.mem_toList_iff.mp h)
    exact ⟨⟨i, hi⟩, hx⟩

/-- The greatest height is the one height that a tile has and none exceeds (R42). -/
theorem greatestHeight_eq {x : Surface} {n : Nat} (hle : ∀ i : Fin 24, x.height[i] ≤ n)
    (hex : ∃ i : Fin 24, x.height[i] = n) : greatestHeight x = n := by
  obtain ⟨i, rfl⟩ := hex
  exact Nat.le_antisymm ((greatestHeight_le x _).mpr hle) ((greatestHeight_le x _).mp le_rfl i)

/-- The build field names A by 0, B by 1, and nothing by any other value (R176). -/
theorem buildField_eq (p : List Byte) : buildField p =
    if (byteAt p 0).toNat = 0 then some .A else if (byteAt p 0).toNat = 1 then some .B else none := by
  unfold buildField
  split <;> simp_all

/-- With room out of SILENT a BUILD REPORT is placed (R42). -/
theorem reportBuild_room (hs : s.station ≠ .silent) (hl : s.txQueue.length < txCapacity) :
    reportBuild b s = { s with txQueue := s.txQueue ++ [TxFrame.fresh (.buildReport (reportOf b (s.build b)))] } :=
  offer_room _ hs hl

/-- With room for both, a REPLY and a BUILD REPORT, where one follows, stand behind the frames held (R42, R43). -/
theorem answer_thenReport (code : Nat) (r : ReplyCode) (report : Prop) [Decidable report] (hs : s.station ≠ .silent)
    (hl : s.txQueue.length ≤ 6) :
    (if report then reportBuild b (answer code (some b) r s) else answer code (some b) r s) = { s with
      txQueue := s.txQueue ++ TxFrame.fresh (.reply 3 (BitVec.ofNat 8 code) (some b) r (replyIndex code (some b) s)) ::
        (if report then [TxFrame.fresh (.buildReport (reportOf b (s.build b)))] else []) } := by
  have hanswer := answer_room code (some b) r hs (Nat.lt_of_le_of_lt hl (by decide))
  split_ifs
  · rw [hanswer, reportBuild_room (by exact hs) (by simp [txCapacity]; omega)]
    simp only [List.append_assoc, List.singleton_append]
    congr 6
  · exact hanswer

/-- Taking a frame and ending the live prepare leave the builds (R43, R164). -/
theorem build_taken (c : BuildId) : State.build { s with rxBuffer := rest, pairing := none } c = s.build c :=
  build_congr rfl rfl c

/-- What stands in the transmit queue is no part of a build. -/
theorem build_queue (q : List TxFrame) (c : BuildId) : State.build { s with txQueue := q } c = s.build c :=
  build_congr rfl rfl c

/-- A command that has taken its frame changes one build. -/
theorem taken_updateBuild (g : Build → Build) (s : State) (rest : List Frame) (b : BuildId) :
    ∃ u, u = updateBuild b g { s with rxBuffer := rest, pairing := none } ∧ u.build b = g (s.build b) ∧
      (∀ c, c ≠ b → u.build c = s.build c) ∧
      u = { s with rxBuffer := rest, pairing := none, buildA := u.buildA, buildB := u.buildB } := by
  refine ⟨_, rfl, ?_, fun c hc => ?_, updateBuild_eq b g _⟩
  · rw [updateBuild_build_same, build_taken]
  · rw [updateBuild_build_other _ _ _ _ hc, build_taken]

/-- A station that takes a build command is not in SILENT (R43). -/
theorem not_silent_of_takes {code : Nat} (h : TakesBuildCommand s code f rest b) : s.station ≠ .silent := by
  obtain ⟨-, -, -, -, h | h | h, -⟩ := h <;> simp [h]

/-! ### Accepted commands (R44 to R47, R54) -/

/-- ORDER OPEN with 1 to 32 lines on a build in EMPTY or LOADING (R44, R45). -/
theorem orderOpenOn_accepts (hst : (s.build b).state = .empty ∨ (s.build b).state = .loading)
    (hok : lineCountOk f.payload = true) :
    orderOpenOn f b s = if (s.build b).state = .empty
      then reportBuild b (answer 1 (some b) .accepted (updateBuild b (Build.load (headerOf f.payload)) s))
      else answer 1 (some b) .accepted (updateBuild b (Build.load (headerOf f.payload)) s) := by
  rcases hst with h | h <;> simp [orderOpenOn, h, hok]

/-- ORDER LINES that passes R46 (R46, R47). -/
theorem orderLinesOn_accepts {o : OrderHeader} (hst : (s.build b).state = .loading) (ho : (s.build b).order = some o)
    (hfirst : (byteAt f.payload 1).toNat = (s.build b).nextLine) (hn : 1 ≤ (byteAt f.payload 2).toNat)
    (hn4 : (byteAt f.payload 2).toNat ≤ 4)
    (hcount : (byteAt f.payload 1).toNat + (byteAt f.payload 2).toNat ≤ o.lineCount)
    (hlines : ∀ l ∈ orderLinesOf f.payload, 1 ≤ l.article ∧ l.article ≤ 4095 ∧ 1 ≤ l.ordered) :
    orderLinesOn f b s =
      (let u := answer 2 (some b) .accepted (updateBuild b (Build.addLines (orderLinesOf f.payload)) s)
      if (u.build b).state = .opened then runArbiter (triggerSweep (reportBuild b u)) else u) := by
  have hvalid : (orderLinesOf f.payload).all DemandLine.valid = true := by
    simpa [DemandLine.valid, and_assoc] using hlines
  have hcheck : orderLinesCheck f.payload (s.build b) = none := by
    rw [orderLinesCheck, if_neg (by simp [hfirst]), if_neg (by omega), ho, if_neg (by simpa using hcount), if_pos hvalid]
  simp only [orderLinesOn, hst, hcheck]

/-- BUILD RESUME on a build in HELD with an order, no ending and no rescan pending (R54). -/
theorem buildResumeOn_accepts (hst : (s.build b).state = .held) (ho : (s.build b).order ≠ none)
    (hend : (s.build b).ending = .noEnding) (hdue : (s.build b).scanDue ≠ some .rescan)
    (hflight : ∀ g, (s.build b).scanInFlight = some g → g.kind ≠ .rescan) :
    buildResumeOn f b s = runArbiter (updateBuild b (Build.makeScanDue .rescan) (answer 4 (some b) .accepted s)) := by
  have hpending : rescanPending (s.build b) = false := by
    cases hg : (s.build b).scanInFlight <;> simp [rescanPending, hdue, hg, hflight]
  simp [buildResumeOn, hst, ho, hend, hpending]

/-- A rescan outranks every other scan that is due (R135). -/
theorem mergeDue_rescan (due : Option ScanKind) : mergeDue due .rescan = some .rescan := by
  rcases due with _ | k
  · rfl
  · cases k <;> rfl

/-! ### Refused commands (R43 to R46, R54, R55, R58) -/

/-- A command frame for another station, and any in SILENT, is ignored (R164, R175). -/
theorem onCommand_ignores (act : State → State)
    (h : s.station = .silent ∨ highNibble f ≠ 0 ∧ s.stationNumber ≠ some (highNibble f)) : onCommand f act s = s := by
  rw [onCommand, if_pos]
  rcases h with h | ⟨h0, hn⟩
  · exact .inl h
  · exact .inr (by simp [addressedHere, h0, hn])

/-- Every command of kind 3 is taken from the receive buffer by its code and acted on where it is not ignored (R43,
R164). -/
theorem exec_kind3 {code : Nat} {cmd : Instr}
    (h : (code, cmd) ∈ [(1, Instr.orderOpen), (2, .orderLines), (3, .orderCancel), (4, .buildResume),
      (5, .buildRelease), (8, .clearPrepare), (9, .clear), (12, .statusQuery), (13, .faultQuery)]) :
    ∃ act : Frame → State → State → State,
      ∀ s, exec cmd s = done (handOn (isCode 3 code) (fun f t => onCommand f (act f t) t) s) := by
  simp only [List.mem_cons, Prod.mk.injEq, List.not_mem_nil, or_false] at h
  rcases h with ⟨rfl, rfl⟩ | ⟨rfl, rfl⟩ | ⟨rfl, rfl⟩ | ⟨rfl, rfl⟩ | ⟨rfl, rfl⟩ | ⟨rfl, rfl⟩ | ⟨rfl, rfl⟩ | ⟨rfl, rfl⟩ |
    ⟨rfl, rfl⟩
  all_goals exact ⟨_, fun _ => rfl⟩

/-- What each of the five build commands does on the build that it names. -/
def buildAction : Nat → Frame → BuildId → State → State
  | 1 => orderOpenOn
  | 2 => orderLinesOn
  | 3 => orderCancelOn
  | 4 => buildResumeOn
  | _ => buildReleaseOn

/-- The five build commands are taken alike (R43). -/
theorem exec_buildCommand {code : Nat} {cmd : Instr}
    (h : (code, cmd) ∈ [(1, Instr.orderOpen), (2, .orderLines), (3, .orderCancel), (4, .buildResume),
      (5, .buildRelease)]) : exec cmd s = done (buildCommand code (buildAction code) s) := by
  simp only [List.mem_cons, Prod.mk.injEq, List.not_mem_nil, or_false] at h
  rcases h with ⟨rfl, rfl⟩ | ⟨rfl, rfl⟩ | ⟨rfl, rfl⟩ | ⟨rfl, rfl⟩ | ⟨rfl, rfl⟩ <;> rfl

/-- ORDER OPEN is refused by its table (R44, R45, R152). -/
theorem orderOpenOn_refuses {r : ReplyCode}
    (h : ((s.build b).state = .closing ∨ (s.build b).state = .swapping) ∧ r = .busy ∨
      ((s.build b).state = .opened ∨ (s.build b).state = .held) ∧ r = .busy ∨
      ((s.build b).state = .empty ∨ (s.build b).state = .loading) ∧
        ((byteAt f.payload 6).toNat = 0 ∨ 32 < (byteAt f.payload 6).toNat) ∧ r = .data) :
    orderOpenOn f b s = answer 1 (some b) r s := by
  rcases h with ⟨h | h, rfl⟩ | ⟨h | h, rfl⟩ | ⟨h, hcount, rfl⟩
  iterate 4 simp [orderOpenOn, h]
  have hok : lineCountOk f.payload = false := by
    rw [← Bool.not_eq_true, lineCountOk, Bool.and_eq_true, decide_eq_true_eq, decide_eq_true_eq]
    omega
  rcases h with h | h <;> simp [orderOpenOn, h, hok]

/-- ORDER LINES is refused by its table, with its checks in their order (R46, R152). -/
theorem orderLinesOn_refuses {r : ReplyCode}
    (h : ((s.build b).state = .closing ∨ (s.build b).state = .swapping) ∧ r = .busy ∨
      (s.build b).state = .empty ∧ r = .noOrder ∨
      ((s.build b).state = .opened ∨ (s.build b).state = .held) ∧ r = .busy ∨
      (s.build b).state = .loading ∧ (byteAt f.payload 1).toNat ≠ (s.build b).nextLine ∧ r = .sequence ∨
      (s.build b).state = .loading ∧ (byteAt f.payload 1).toNat = (s.build b).nextLine ∧
        ((byteAt f.payload 2).toNat = 0 ∨ 4 < (byteAt f.payload 2).toNat ∨
          ((s.build b).order.map OrderHeader.lineCount).getD 0 <
            (byteAt f.payload 1).toNat + (byteAt f.payload 2).toNat ∨
          ∃ l ∈ orderLinesOf f.payload, l.article = 0 ∨ 4095 < l.article ∨ l.ordered = 0) ∧ r = .data) :
    orderLinesOn f b s = answer 2 (some b) r s := by
  rcases h with ⟨h | h, rfl⟩ | ⟨h, rfl⟩ | ⟨h | h, rfl⟩ | ⟨h, hfirst, rfl⟩ | ⟨h, hfirst, hdata, rfl⟩
  iterate 5 simp [orderLinesOn, h]
  · have hcheck : orderLinesCheck f.payload (s.build b) = some .sequence := if_pos hfirst
    simp [orderLinesOn, h, hcheck]
  · have hcheck : orderLinesCheck f.payload (s.build b) = some .data := by
      rw [orderLinesCheck, if_neg (by simpa using hfirst)]
      split_ifs with h1 h2 h3
      · rfl
      · rfl
      · rcases hdata with h0 | h4 | hc | ⟨l, hl, hbad⟩
        · exact absurd (.inl h0) h1
        · exact absurd (.inr h4) h1
        · exact absurd hc h2
        · have hvalid := List.all_eq_true.mp h3 l hl
          simp only [DemandLine.valid, Bool.and_eq_true, decide_eq_true_eq] at hvalid
          omega
      · rfl
    simp [orderLinesOn, h, hcheck]

/-- ORDER CANCEL is refused by its table (R55, R152). -/
theorem orderCancelOn_refuses {r : ReplyCode}
    (h : ((s.build b).state = .closing ∨ (s.build b).state = .swapping) ∧ r = .busy ∨
      ((s.build b).state = .empty ∨ (s.build b).state = .held ∧ (s.build b).order = none) ∧ r = .noOrder ∨
      ((s.build b).state = .opened ∨ (s.build b).state = .held ∧ (s.build b).order ≠ none) ∧
        (s.build b).ending ≠ .noEnding ∧ r = .busy) :
    orderCancelOn f b s = answer 3 (some b) r s := by
  rcases h with ⟨h | h, rfl⟩ | ⟨h | ⟨h, ho⟩, rfl⟩ | ⟨h | ⟨h, ho⟩, he, rfl⟩ <;> simp [orderCancelOn, *]

/-- BUILD RESUME is refused by its table (R54, R152). -/
theorem buildResumeOn_refuses {r : ReplyCode}
    (h : ((s.build b).state = .closing ∨ (s.build b).state = .swapping) ∧ r = .busy ∨
      ((s.build b).state = .empty ∨ (s.build b).state = .held ∧ (s.build b).order = none) ∧ r = .noOrder ∨
      ((s.build b).state = .loading ∨ (s.build b).state = .opened) ∧ r = .busy ∨
      (s.build b).state = .held ∧ (s.build b).order ≠ none ∧ ((s.build b).ending ≠ .noEnding ∨
        (s.build b).scanDue = some .rescan ∨ ∃ g, (s.build b).scanInFlight = some g ∧ g.kind = .rescan) ∧ r = .busy) :
    buildResumeOn f b s = answer 4 (some b) r s := by
  rcases h with ⟨h | h, rfl⟩ | ⟨h | ⟨h, ho⟩, rfl⟩ | ⟨h | h, rfl⟩ | ⟨h, ho, hbusy, rfl⟩
  iterate 6 simp [buildResumeOn, *]
  have hpending : (s.build b).ending ≠ .noEnding ∨ rescanPending (s.build b) = true := by
    rcases hbusy with h | h | ⟨g, h, hk⟩
    · exact .inl h
    · exact .inr (by simp [rescanPending, h])
    · exact .inr (by simp [rescanPending, h, hk])
  simp [buildResumeOn, h, ho, hpending]

/-- BUILD RELEASE is refused by its table (R58, R152). -/
theorem buildReleaseOn_refuses {r : ReplyCode}
    (h : ((s.build b).state = .closing ∨ (s.build b).state = .swapping) ∧ r = .busy ∨
      (s.build b).state = .empty ∧ r = .noOrder ∨ (s.build b).state = .loading ∧ r = .busy ∨
      ((s.build b).state = .opened ∨ (s.build b).state = .held) ∧ (s.build b).ending = .release ∧ r = .busy) :
    buildReleaseOn f b s = answer 5 (some b) r s := by
  rcases h with ⟨h | h, rfl⟩ | ⟨h, rfl⟩ | ⟨h, rfl⟩ | ⟨h | h, he, rfl⟩ <;> simp [buildReleaseOn, *]

end Sys2Proof.Machine

open Sys2Proof Sys2Proof.Machine

/-- Settles O34. -/
theorem orderOpenStartsLoading : Obligations.OrderOpenStartsLoading := by
  refine ⟨fun b x => ⟨greatestHeight x.built, (greatestHeight_le _ _).mp le_rfl, greatestHeight_tile _, rfl⟩,
    buildField_eq, fun s f rest b h hst h1 h32 hlen => ?_⟩
  have hu : (s.build b).state ≠ .unused := by rcases hst with h | h <;> simp [h]
  obtain ⟨u, hg, hub, huo, hueq⟩ := taken_updateBuild (Build.load (headerOf f.payload)) s rest b
  have hs := not_silent_of_takes h
  obtain ⟨q, hq⟩ : ∃ q, q = s.txQueue ++ TxFrame.fresh (.reply 3 1 (some b) .accepted 0) ::
    (if (s.build b).state = .empty then [TxFrame.fresh (.buildReport (reportOf b (u.build b)))] else []) := ⟨_, rfl⟩
  have hrun : orderOpen s = { u with txQueue := q } := by
    rw [orderOpen, buildCommand_takes h hu, orderOpenOn_accepts (by rw [build_taken]; exact hst)
      (by simp [lineCountOk, h1, h32]), ← hg, answer_thenReport, build_taken, hq]
    · rw [hueq]; rfl
    · rw [hueq]; exact hs
    · rw [hueq]; exact hlen
  have hbuilds (c : BuildId) : (showBeacons { u with txQueue := q }).build c = u.build c := by
    rw [showBeacons_build, build_queue]
  refine ⟨_, congrArg done hrun, ?_, fun c hc => ?_, ?_, ?_⟩
  · rw [hbuilds, hub]
    rfl
  · rw [hbuilds, huo c hc]
  · rw [hbuilds, ← hq, showBeacons_txQueue]
  · rw [hueq]
    rfl

/-- Settles O35. -/
theorem orderLinesFillTheOrder : Obligations.OrderLinesFillTheOrder := by
  refine ⟨fun p => ⟨by simp [orderLinesOf], fun k hk => by simp [orderLinesOf, hk, orderLine]⟩,
    fun s f rest b o h hst ho hfirst hn hn4 hcount hlines hlen hheld => ?_⟩
  have hs := not_silent_of_takes h
  have hlength : (orderLinesOf f.payload).length = (byteAt f.payload 2).toNat := by simp [orderLinesOf]
  have hlast : ((s.build b).order.map OrderHeader.lineCount).getD 0 = o.lineCount := by rw [ho]; rfl
  obtain ⟨u, hg, hub, huo, hueq⟩ := taken_updateBuild (Build.addLines (orderLinesOf f.payload)) s rest b
  obtain ⟨n, hnext⟩ : ∃ n, n = (s.build b).nextLine + (byteAt f.payload 2).toNat := ⟨_, rfl⟩
  have hbuild : u.build b = { s.build b with
      lines := (s.build b).lines ++ orderLinesOf f.payload
      nextLine := n
      state := if n = o.lineCount then .opened else .loading } := by
    rw [hub, Build.addLines, hlength, ← hnext, hlast, hst]
  obtain ⟨q, hq⟩ : ∃ q, q = s.txQueue ++ TxFrame.fresh (.reply 3 2 (some b) .accepted (BitVec.ofNat 8 n)) ::
    (if n = o.lineCount then [TxFrame.fresh (.buildReport (reportOf b (u.build b)))] else []) := ⟨_, rfl⟩
  have hreport : (if n = o.lineCount then reportBuild b (answer 2 (some b) .accepted u)
      else answer 2 (some b) .accepted u) = { u with txQueue := q } := by
    have hindex : replyIndex 2 (some b) u = BitVec.ofNat 8 n := by
      rw [replyIndex, if_pos rfl]
      simp [hbuild]
    rw [answer_thenReport 2 .accepted _ (by rw [hueq]; exact hs) (by rw [hueq]; exact hlen), hindex, hq]
    rw [hueq]
    rfl
  have hrun : orderLines s =
      if n = o.lineCount then triggerSweep { u with txQueue := q } else { u with txQueue := q } := by
    have hopen : ((answer 2 (some b) .accepted u).build b).state = .opened ↔ n = o.lineCount := by
      rw [answer, offer_build, hbuild]
      dsimp only
      split_ifs with hc <;> simp [hc]
    rw [orderLines, buildCommand_takes h (by simp [hst]), orderLinesOn_accepts (by rw [build_taken]; exact hst)
      (by rw [build_taken]; exact ho) (by rw [build_taken]; exact hfirst) hn hn4 hcount hlines, ← hg]
    simp only [hopen]
    split_ifs with hc
    · rw [if_pos hc] at hreport
      rw [hreport, runArbiter_held]
      rw [hueq]
      exact hheld
    · rw [if_neg hc] at hreport
      exact hreport
  obtain ⟨w, hw⟩ : ∃ w, w = if n = o.lineCount then triggerSweep { u with txQueue := q } else { u with txQueue := q } :=
    ⟨_, rfl⟩
  have hkept : w = { u with txQueue := q, sweep := w.sweep, pendingSweep := w.pendingSweep } := by
    rw [hw]
    split_ifs <;> rfl
  have hbuilds (c : BuildId) : (showBeacons w).build c = u.build c := by
    rw [showBeacons_build, hkept]
    exact build_congr rfl rfl c
  refine ⟨showBeacons w, n, congrArg done (hrun.trans hw.symm), hnext, (hbuilds b).trans hbuild, fun l hl => ?_,
    fun c hc => ?_, ?_, fun hc => ?_, ?_⟩
  · obtain ⟨k, -, rfl⟩ := List.mem_map.mp hl
    exact ⟨rfl, rfl⟩
  · rw [hbuilds, huo c hc]
  · rw [hbuilds, ← hq, showBeacons_txQueue, hkept]
  · rw [showBeacons_sweep, hw, if_pos hc, triggerSweep_sweep]
    rfl
  · rw [hkept, hueq]
    rfl

/-- Settles O37. -/
theorem buildResumeMakesARescanDue : Obligations.BuildResumeMakesARescanDue := by
  intro s f rest b h hlen hheld hst ho hend hdue hflight
  have hs := not_silent_of_takes h
  obtain ⟨u, hg, hub, huo, hueq⟩ := taken_updateBuild (Build.makeScanDue .rescan) s rest b
  obtain ⟨q, hq⟩ : ∃ q, q = s.txQueue ++ [TxFrame.fresh (.reply 3 4 (some b) .accepted 0)] := ⟨_, rfl⟩
  have hrun : buildResume s = { u with txQueue := q } := by
    rw [buildResume, buildCommand_takes h (by simp [hst]), buildResumeOn_accepts, answer_room, runArbiter_held]
    · rw [hq, hg]
      cases b <;> rfl
    · rw [updateBuild_eq]; exact hheld
    · exact hs
    · exact Nat.lt_of_le_of_lt hlen (by decide)
    all_goals rw [build_taken]; assumption
  refine ⟨_, congrArg done hrun, ?_, fun c hc => ?_, ?_⟩
  · rw [showBeacons_build, build_queue, hub, Build.makeScanDue, mergeDue_rescan]
  · rw [showBeacons_build, build_queue, huo c hc]
  · rw [hueq, hq]
    rfl

/-- Settles O39: one argument for the frames that are ignored, and the tables of the five build commands. -/
theorem refusedBuildCommandsChangeNothing : Obligations.RefusedBuildCommandsChangeNothing := by
  intro s f rest code cmd hrx hcode
  refine ⟨fun hcmd hignored => ?_, fun hcmd hs hlen => ⟨fun hall => ?_, fun r hhere hnumber hrow => ?_⟩⟩
  · obtain ⟨act, hact⟩ := exec_kind3 hcmd
    refine ⟨_, hact s, ?_⟩
    rw [handOn_takes _ _ hrx hcode]
    exact showBeacons_of_eq (onCommand_ignores (s := { s with rxBuffer := rest }) _ hignored)
  · have htakes : TakesCommand s code f rest := ⟨hrx, hcode, .inl hall, hs⟩
    refine ⟨_, exec_buildCommand hcmd, ?_⟩
    rw [buildCommand, handOn_takes _ _ hrx hcode, onCommand_takes htakes, onBuildCommand, if_pos hall]
    rfl
  · have htakes : TakesCommand s code f rest := ⟨hrx, hcode, .inr hnumber, hs⟩
    obtain ⟨v, hv⟩ : ∃ v : State, v = { s with rxBuffer := rest, pairing := none } := ⟨_, rfl⟩
    have hvb (c : BuildId) : v.build c = s.build c := by rw [hv, build_taken]
    have hrefused : onBuildCommand code f (buildAction code f) v = answer code (buildField f.payload) r v := by
      rw [onBuildCommand, if_neg hhere]
      rcases hrow with ⟨hst, rfl⟩ | ⟨hst, hfield, rfl⟩ | ⟨hst, b, x, hfield, rfl, hrow⟩
      · rw [if_pos (by rw [hv]; exact hst)]
      · rw [if_neg (by rw [hv]; exact hst), hfield]
      · rw [if_neg (by rw [hv]; exact hst), hfield]
        by_cases hunused : (s.build b).state = .unused
        · rw [← hvb] at hunused hrow
          simp only [hunused, reduceCtorEq, false_and, and_false, or_false, or_self, true_and] at hrow
          rw [hrow]
          exact if_pos hunused
        · simp only [hunused, false_and, false_or] at hrow
          rw [← hvb] at hunused hrow
          simp only [List.mem_cons, Prod.mk.injEq, List.not_mem_nil, or_false] at hcmd
          refine (if_neg hunused).trans ?_
          rcases hcmd with ⟨rfl, rfl⟩ | ⟨rfl, rfl⟩ | ⟨rfl, rfl⟩ | ⟨rfl, rfl⟩ | ⟨rfl, rfl⟩ <;>
            simp only [Nat.reduceEqDiff, OfNat.ofNat_ne_one, OfNat.one_ne_ofNat, false_and, true_and, or_false,
              false_or] at hrow
          · exact orderOpenOn_refuses hrow
          · exact orderLinesOn_refuses hrow
          · exact orderCancelOn_refuses (f := f) hrow
          · exact buildResumeOn_refuses (f := f) hrow
          · exact buildReleaseOn_refuses (f := f) hrow
    have hindex : replyIndex code (buildField f.payload) v = if code = 2 then
        ((buildField f.payload).map (fun b => BitVec.ofNat 8 (s.build b).nextLine)).getD Config.indexOfNoBuild
        else 0 := by
      cases buildField f.payload with
      | none => rfl
      | some b =>
        change (if code = 2 then BitVec.ofNat 8 (v.build b).nextLine else 0) = _
        rw [hvb]
        rfl
    refine ⟨_, exec_buildCommand hcmd, ?_⟩
    rw [buildCommand, handOn_takes _ _ hrx hcode, onCommand_takes htakes, ← hv, hrefused,
      answer_room _ _ _ (by rw [hv]; exact hs) (by rw [hv]; exact hlen), hindex, hv]
    rfl
end

section
/-!
An ending that is accepted (R55 to R60): the reply, the removals, and the settling of a build whose plan list is empty,
said once for ORDER CANCEL and BUILD RELEASE.
-/
namespace Sys2Proof.Machine

variable {b : BuildId} {s t u w : State}

/-! ### Frames offered one after the other (R24, R26) -/

/-- Frames offered one after the other. -/
def offerAll (l : List TxBody) (s : State) : State := l.foldl (fun t body => offer body t) s

theorem offerAll_nil (s : State) : offerAll [] s = s := rfl

theorem offerAll_cons (body : TxBody) (l : List TxBody) (s : State) :
    offerAll (body :: l) s = offerAll l (offer body s) := rfl

/-- With room for all of them, out of SILENT, the frames stand behind those held. -/
theorem offerAll_room (l : List TxBody) (hs : s.station ≠ .silent) (hl : s.txQueue.length + l.length ≤ 8) :
    offerAll l s = { s with txQueue := s.txQueue ++ l.map TxFrame.fresh } := by
  induction l generalizing s with
  | nil => simp [offerAll_nil]
  | cons body l ih =>
    rw [List.length_cons] at hl
    rw [offerAll_cons, offer_room _ hs (by simp only [txCapacity]; omega),
      ih (by exact hs) (by simp only [List.length_append, List.length_cons, List.length_nil]; omega)]
    simp

/-- Offered frames change no build. -/
theorem offerAll_build (l : List TxBody) (s : State) (c : BuildId) : (offerAll l s).build c = s.build c := by
  induction l generalizing s with
  | nil => rfl
  | cons body l ih => rw [offerAll_cons, ih, offer_build]

/-- Offered frames write the transmit queue and count TX DROP, and nothing else (R26). -/
theorem offerAll_eq (l : List TxBody) (s : State) : offerAll l s = { s with
    txQueue := (offerAll l s).txQueue
    counters := { s.counters with txDrop := (offerAll l s).counters.txDrop } } := by
  induction l generalizing s with
  | nil => rfl
  | cons body l ih =>
    have hcount : (offer body s).counters = { s.counters with txDrop := (offer body s).counters.txDrop } := by
      rw [offer]
      dsimp only
      split_ifs <;> rfl
    rw [offerAll_cons]
    refine (ih (offer body s)).trans ?_
    rw [hcount]
    rfl

/-- The frames held stay, and each other frame is an offered one. -/
theorem offerAll_txQueue (l : List TxBody) (s : State) :
    ∃ k : List TxBody, (offerAll l s).txQueue = s.txQueue ++ k.map TxFrame.fresh ∧ ∀ body ∈ k, body ∈ l := by
  induction l generalizing s with
  | nil => exact ⟨[], by simp [offerAll_nil], by simp⟩
  | cons body l ih =>
    obtain ⟨k, hk, hkl⟩ := ih (offer body s)
    rw [offerAll_cons, hk]
    by_cases h : s.station = .silent ∨ txCapacity ≤ s.txQueue.length
    · exact ⟨k, by simp [offer, h], fun x hx => List.mem_cons_of_mem _ (hkl x hx)⟩
    · refine ⟨body :: k, by simp [offer, h], fun x hx => ?_⟩
      rcases List.mem_cons.mp hx with rfl | hx
      · exact List.mem_cons_self
      · exact List.mem_cons_of_mem _ (hkl x hx)

/-- Frames other than claims leave the records and the claims of every tag. -/
theorem offerAll_spares (l : List TxBody) (tag : Tag) (h : ∀ body ∈ l, (TxFrame.fresh body).isClaim = false) :
    Spares tag s (offerAll l s) := by
  induction l generalizing s with
  | nil => exact .refl tag s
  | cons body l ih =>
    exact (offer_spares body tag (h body List.mem_cons_self)).trans (ih fun x hx => h x (List.mem_cons_of_mem _ hx))

/-! ### The settling (R57, R60) -/

/-- The settling of an ending finds the build in OPEN or HELD with an empty plan list (R57, R60). -/
def Build.settles (x : Build) : Bool := inOpenOrHeld x && x.plan.isEmpty

/-- A build as the settling of its ending leaves it (R57, R60). -/
def Build.settled (x : Build) : Build :=
  if x.settles = true then
    match x.ending with
    | .noEnding => x
    | .cancel => if allDeck x.built then x.cancelEmpty else x.cancelClosing
    | .release => x.releaseSwap
  else x

/-- The frames that the settling of an ending offers (R42, R57, R60). -/
def settlingFrames (b : BuildId) (x : Build) : List TxBody :=
  if x.settles = true then
    match x.ending with
    | .noEnding => []
    | .cancel => [.buildReport (reportOf b x.settled)]
    | .release => [.palletDone b ((x.order.map OrderHeader.ref).getD 0) x.built.cases x.built.weight false,
        .buildReport (reportOf b x.settled)]
  else []

theorem Build.settled_of_not {x : Build} (h : x.settles = false) : x.settled = x := by
  simp [Build.settled, h]

theorem Build.settled_noEnding {x : Build} (h : x.ending = .noEnding) : x.settled = x := by
  simp [Build.settled, h]

theorem Build.settled_cancel {x : Build} (h : x.settles = true) (he : x.ending = .cancel) :
    x.settled = if allDeck x.built then x.cancelEmpty else x.cancelClosing := by
  simp [Build.settled, h, he]

theorem Build.settled_release {x : Build} (h : x.settles = true) (he : x.ending = .release) :
    x.settled = x.releaseSwap := by
  simp [Build.settled, h, he]

theorem settlingFrames_of_not {x : Build} (h : x.settles = false) : settlingFrames b x = [] := by
  simp [settlingFrames, h]

theorem settlingFrames_noEnding {x : Build} (h : x.ending = .noEnding) : settlingFrames b x = [] := by
  simp [settlingFrames, h]

theorem settlingFrames_cancel {x : Build} (h : x.settles = true) (he : x.ending = .cancel) :
    settlingFrames b x = [.buildReport (reportOf b x.settled)] := by
  simp [settlingFrames, h, he]

theorem settlingFrames_release {x : Build} (h : x.settles = true) (he : x.ending = .release) :
    settlingFrames b x = [.palletDone b ((x.order.map OrderHeader.ref).getD 0) x.built.cases x.built.weight false,
      .buildReport (reportOf b x.settled)] := by
  simp [settlingFrames, h, he]

/-- The settling keeps the plan list, the built surface, the scan in flight and the swap in flight. -/
theorem Build.settled_kept (x : Build) : x.settled.plan = x.plan ∧ x.settled.built = x.built ∧
    x.settled.scanInFlight = x.scanInFlight ∧ x.settled.swapInFlight = x.swapInFlight := by
  rw [Build.settled]
  split
  · split
    · exact ⟨rfl, rfl, rfl, rfl⟩
    · split <;> exact ⟨rfl, rfl, rfl, rfl⟩
    · exact ⟨rfl, rfl, rfl, rfl⟩
  · exact ⟨rfl, rfl, rfl, rfl⟩

/-- The settling offers a PALLET DONE or a BUILD REPORT, two frames at most. -/
theorem settlingFrames_other (x : Build) : (settlingFrames b x).length ≤ 2 ∧ ∀ body ∈ settlingFrames b x,
    (TxFrame.fresh body).isClaim = false ∧ ∀ tag m, body ≠ .miss tag m := by
  rw [settlingFrames]
  split
  · split <;> simp [TxFrame.isClaim, TxFrame.fresh]
  · simp

/-- A build that is written as it stands is no change. -/
theorem updateBuild_same {g : Build → Build} (h : g (s.build b) = s.build b) : updateBuild b g s = s := by
  rw [updateBuild, h]
  cases b <;> rfl

/-- An offered frame and a change of a build do not touch the same parts. -/
theorem updateBuild_offer (g : Build → Build) (body : TxBody) :
    updateBuild b g (offer body s) = offer body (updateBuild b g s) := by
  cases b <;> rfl

/-- The settling of an ending writes the build and offers its frames (R57, R60). -/
theorem settleEnding_eq (b : BuildId) (s : State) :
    settleEnding b s = offerAll (settlingFrames b (s.build b)) (updateBuild b Build.settled s) := by
  by_cases h : (s.build b).settles = true
  · have h' : (inOpenOrHeld (s.build b) && (s.build b).plan.isEmpty) = true := h
    rw [settleEnding]
    simp only [h', if_true]
    cases he : (s.build b).ending with
    | noEnding =>
      rw [settlingFrames_noEnding he, offerAll_nil, updateBuild_same (Build.settled_noEnding he)]
    | cancel =>
      have hb : updateBuild b (fun y => if allDeck y.built then y.cancelEmpty else y.cancelClosing) s =
          updateBuild b Build.settled s := by
        rw [updateBuild, updateBuild, Build.settled_cancel h he]
      rw [settlingFrames_cancel h he, offerAll_cons, offerAll_nil, ← updateBuild_build_same s b Build.settled, ← hb]
      rfl
    | release =>
      have hb : updateBuild b Build.releaseSwap s = updateBuild b Build.settled s := by
        rw [updateBuild, updateBuild, Build.settled_release h he]
      change reportBuild b (updateBuild b Build.releaseSwap (palletDone b false s)) = _
      rw [settlingFrames_release h he, offerAll_cons, offerAll_cons, offerAll_nil, reportBuild, palletDone,
        updateBuild_offer, hb, offer_build, updateBuild_build_same]
  · have h' : ¬ (inOpenOrHeld (s.build b) && (s.build b).plan.isEmpty) = true := h
    rw [Bool.not_eq_true] at h
    rw [settleEnding]
    simp only [if_neg h']
    rw [settlingFrames_of_not h, offerAll_nil, updateBuild_same (Build.settled_of_not h)]

/-- The settling changes its build alone. -/
theorem settleEnding_build (b : BuildId) (s : State) : (settleEnding b s).build b = (s.build b).settled := by
  rw [settleEnding_eq, offerAll_build, updateBuild_build_same]

theorem settleEnding_other {c : BuildId} (h : c ≠ b) : (settleEnding b s).build c = s.build c := by
  rw [settleEnding_eq, offerAll_build, updateBuild_build_other _ _ _ _ h]

/-- The settling writes the builds, the transmit queue and TX DROP, and nothing else. -/
theorem settleEnding_kept (b : BuildId) (s : State) : settleEnding b s = { s with
    buildA := (settleEnding b s).buildA, buildB := (settleEnding b s).buildB, txQueue := (settleEnding b s).txQueue
    counters := { s.counters with txDrop := (settleEnding b s).counters.txDrop } } := by
  obtain ⟨u, hu⟩ : ∃ u, u = updateBuild b Build.settled s := ⟨_, rfl⟩
  have hbuilds : u = { s with buildA := u.buildA, buildB := u.buildB } := by rw [hu, updateBuild_eq]
  rw [settleEnding_eq, ← hu, offerAll_eq, hbuilds]

/-- The frames held stay through a settling, and the others are those of the settling. -/
theorem settleEnding_txQueue (b : BuildId) (s : State) : ∃ k : List TxBody,
    (settleEnding b s).txQueue = s.txQueue ++ k.map TxFrame.fresh ∧ ∀ body ∈ k, body ∈ settlingFrames b (s.build b) := by
  obtain ⟨k, hk, hl⟩ := offerAll_txQueue (settlingFrames b (s.build b)) (updateBuild b Build.settled s)
  exact ⟨k, by rw [settleEnding_eq, hk, updateBuild_txQueue], hl⟩

/-- With room the frames of the settling stand behind those held. -/
theorem settleEnding_room (hs : s.station ≠ .silent)
    (hl : s.txQueue.length + (settlingFrames b (s.build b)).length ≤ 8) :
    settleEnding b s = { updateBuild b Build.settled s with
      txQueue := s.txQueue ++ (settlingFrames b (s.build b)).map TxFrame.fresh } := by
  rw [settleEnding_eq, offerAll_room _ (by rw [updateBuild_station]; exact hs) (by rw [updateBuild_txQueue]; exact hl),
    updateBuild_txQueue]

theorem settleEnding_spares (b : BuildId) (tag : Tag) : Spares tag s (settleEnding b s) := by
  rw [settleEnding_eq]
  exact (spares_of_eq tag (updateBuild_track _ _ _) (updateBuild_txQueue _ _ _)).trans
    (offerAll_spares _ tag fun body hb => ((settlingFrames_other _).2 body hb).1)

/-! ### The removals of an ending (R56, R59) -/

/-- The recomputation of a list of PLACING entries removes nothing (R89). -/
theorem recompute_placing (h : ∀ e ∈ (s.build b).plan, e.state = .placing) : Removes b s [] (recompute b s) := by
  obtain ⟨w, hw, _, hrun⟩ := recompute_removes b s
  have hnone : (s.build b).falls s.line = [] := fallen_placing _ _ _ h
  rw [hnone] at hw hrun
  rw [hrun, if_pos rfl]
  exact hw

theorem mem_movable (x : Build) (e : PlanEntry) : e ∈ movable x ↔ e ∈ x.plan ∧ e.state ≠ .placing := by
  simp [movable]

/-- After the withdrawal of what is not PLACING, PLACING entries stand alone. -/
theorem Removes.placing_left {l : List Removal} {m : MissReason}
    (h : Removes b s ((movable (s.build b)).map (.withdrawn m) ++ l) w) :
    ∀ e ∈ (w.build b).plan, e.state = .placing := by
  intro e he
  obtain ⟨hmem, hgone⟩ := (h.mem_plan e).mp he
  by_contra hstate
  exact hgone (.withdrawn m e)
    (List.mem_append_left _ (List.mem_map_of_mem ((mem_movable _ _).mpr ⟨hmem, hstate⟩))) rfl

theorem withdrawMovable_removes (m : MissReason) :
    Removes b s ((movable (s.build b)).map (.withdrawn m)) (withdrawMovable b m s) :=
  foldl_removes (.withdrawn m) _ s

/-- A batch withdraws the CONTESTED and WON entries, and its recomputation no others (R86, R87). -/
theorem withdrawBatch_removes (m : MissReason) :
    Removes b s ((movable (s.build b)).map (.withdrawn m)) (withdrawBatch b m s) := by
  have hmoved := withdrawMovable_removes (b := b) (s := s) m
  rw [withdrawBatch]
  split
  · rename_i h
    rw [List.isEmpty_iff.mp h]
    exact .refl s
  · have hall := (hmoved.trans (recompute_placing
      ((show Removes b s (_ ++ []) _ by simpa using hmoved).placing_left)))
    simpa using hall

/-- A release removes the CONTESTED and WON entries and the stranded ones, and its recomputation no others (R59). -/
theorem releaseEntries_removes :
    Removes b s ((movable (s.build b)).map (.withdrawn .cancelled) ++ (strandedEntries b s).map .dropped)
      (releaseEntries b s) := by
  have hmoved := (withdrawMovable_removes (b := b) (s := s) .cancelled).trans
    (foldl_removes .dropped (strandedEntries b s) _)
  unfold releaseEntries
  simp only
  split
  · exact hmoved
  · have hall := hmoved.trans (recompute_placing hmoved.placing_left)
    rw [List.append_nil] at hall
    exact hall

/-! ### An ending with its reply -/

/-- With the port held the arbiter that runs after a settling grants nothing (R109). -/
theorem runIfDue_held (h : PortHeld s) : runIfDue b s = s := by
  rw [runIfDue]
  split
  · exact runArbiter_held h
  · exact runArbiter_held h
  all_goals rfl

/-- The station has taken an ending: state a is state s without the command's frame, with the ending written and the
reply behind the frames held (R56, R59). -/
structure EndingTaken (b : BuildId) (code : Nat) (g : Build → Build) (rest : List Frame) (s a : State) : Prop where
  same : a.build b = g (s.build b)
  other : ∀ c, c ≠ b → a.build c = s.build c
  queue : a.txQueue = s.txQueue ++ [TxFrame.fresh (.reply 3 (BitVec.ofNat 8 code) (some b) .accepted 0)]
  frame : a = { s with
    rxBuffer := rest, pairing := none, txQueue := a.txQueue, buildA := a.buildA, buildB := a.buildB }

theorem ending_taken {code : Nat} (g : Build → Build) (s : State) (rest : List Frame) (hcode : code ≠ 2)
    (hs : s.station ≠ .silent) (hl : s.txQueue.length < 8) :
    EndingTaken b code g rest s
      (answer code (some b) .accepted (updateBuild b g { s with rxBuffer := rest, pairing := none })) := by
  obtain ⟨u, hu, hub, huo, hueq⟩ := taken_updateBuild g s rest b
  have hindex : replyIndex code (some b) u = 0 := by simp [replyIndex, hcode]
  have hqueue : u.txQueue = s.txQueue := by rw [hueq]
  rw [← hu, answer_room _ _ _ (by rw [hueq]; exact hs) (by rw [hqueue]; exact hl), hindex, hqueue]
  refine ⟨by rw [build_queue, hub], fun c hc => by rw [build_queue, huo c hc], rfl, ?_⟩
  rw [hueq]

variable {code : Nat} {g : Build → Build} {rest : List Frame} {a : State} {l : List Removal}

theorem EndingTaken.spares (h : EndingTaken b code g rest s a) (tag : Tag) : Spares tag s a := by
  refine ⟨by rw [h.frame]; rfl, ?_⟩
  rw [h.queue]
  simp [TxFrame.isOwnClaim, TxFrame.fresh]

/-- The queue after an ending, its removals and its settling: the frames held but claims, the reply, the MISS frames and
the frames of the settling, in this order. -/
theorem EndingTaken.txQueue (h : EndingTaken b code g rest s a) (hs : s.station ≠ .silent) (hw : Removes b a l w)
    (hroom : s.txQueue.length + 1 + l.length + (settlingFrames b (w.build b)).length ≤ 8) :
    ∃ (held : List TxFrame) (added : List TxBody),
      (settleEnding b w).txQueue = held ++ TxFrame.fresh (.reply 3 (BitVec.ofNat 8 code) (some b) .accepted 0) ::
        (added ++ settlingFrames b (w.build b)).map TxFrame.fresh ∧
      (held.map TxFrame.body).Sublist (s.txQueue.map TxFrame.body) ∧
      (∀ f ∈ s.txQueue, f.isClaim = false → f ∈ held) ∧
      (∀ body ∈ added, ∃ m e, body = .miss e.tag m ∧ Removal.withdrawn m e ∈ l) ∧
      (∀ m e, Removal.withdrawn m e ∈ l → e.state ≠ .contested → TxBody.miss e.tag m ∈ added) := by
  obtain ⟨F, added, hq⟩ := hw.queueAfter
  have hstation : a.station = s.station := by rw [h.frame]
  have hwstation : w.station = s.station := by rw [hw.withdraws.frame.station, hstation]
  have hlength : a.txQueue.length = s.txQueue.length + 1 := by rw [h.queue]; simp
  have hheld := hq.eq
  rw [h.queue, List.filterMap_append, List.filterMap_cons, hq.passes.other _ rfl, List.filterMap_nil] at hheld
  have hle := hq.length_le
  refine ⟨s.txQueue.filterMap F, added, ?_, hq.passes.bodies _, fun f hf hc => hq.passes.mem hf hc, fun body hb => ?_,
    fun m e hm he => ?_⟩
  · rw [settleEnding_room (by rw [hwstation]; exact hs) (by omega), hheld]
    simp
  · obtain ⟨m, e, hbody, hm, _⟩ := hq.misses body hb
    exact ⟨m, e, hbody, hm⟩
  · exact hq.all (by rw [hstation]; exact hs) (by omega) m e hm he

/-- The record of a CONTESTED entry that an ending withdraws moves as R30 states. -/
theorem EndingTaken.loses (h : EndingTaken b code g rest s a) (hw : Removes b a l w)
    (hd : (l.map fun r => r.entry.tag).Nodup) {m : MissReason} {e : PlanEntry} (hr : Removal.withdrawn m e ∈ l)
    (he : e.state = .contested) : LosesEntry s (showBeacons (settleEnding b w)) e.tag :=
  (hw.loses hd hr he).congr (h.spares _) ((settleEnding_spares b _).trans (spares_of_eq _ rfl rfl))

/-- What an ending with its removals and its settling leaves outside the lists it writes. -/
theorem EndingTaken.frame_settled (h : EndingTaken b code g rest s a) (hw : Removes b a l w) :
    settleEnding b w = { s with
      rxBuffer := rest, pairing := none, txQueue := (settleEnding b w).txQueue,
      positions := (settleEnding b w).positions, track := (settleEnding b w).track,
      throttled := (settleEnding b w).throttled, sweep := (settleEnding b w).sweep,
      pendingSweep := (settleEnding b w).pendingSweep, buildA := (settleEnding b w).buildA,
      buildB := (settleEnding b w).buildB, pick := (settleEnding b w).pick,
      counters := (settleEnding b w).counters } := by
  rw [settleEnding_kept, hw.withdraws.eq, h.frame]

/-- The case of a WON or PLACING entry that an ending removes has no pick entry any more (R86). -/
theorem settleEnding_not_picked (hw : Removes b a l w) {r : Removal} (hr : r ∈ l) (he : r.entry.state ≠ .contested) :
    ∀ q ∈ (showBeacons (settleEnding b w)).pick, q.tag ≠ r.entry.tag := by
  rw [showBeacons_pick, settleEnding_kept]
  exact hw.not_picked hr he

/-- The port stays held through an ending, its removals and its settling. -/
theorem EndingTaken.held (h : EndingTaken b code g rest s a) (hw : Removes b a l w) (hheld : PortHeld s) :
    PortHeld (settleEnding b w) := by
  rw [h.frame_settled hw]
  exact hheld

/-! ### The accepted commands (R55, R58) -/

/-- The ending of a cancel is written (R56). -/
def Build.beginCancel (x : Build) : Build := { x with ending := .cancel }

/-- A cancel on a build in OPEN or HELD with an order and no ending (R55 to R57). -/
theorem orderCancel_accepts {f : Frame} (h : TakesBuildCommand s 3 f rest b) (hheld : PortHeld s)
    (hst : (s.build b).state = .opened ∨ (s.build b).state = .held) (ho : (s.build b).order ≠ none)
    (hend : (s.build b).ending = .noEnding) (hl : s.txQueue.length < 8) :
    ∃ a, EndingTaken b 3 Build.beginCancel rest s a ∧ orderCancel s = settleEnding b (withdrawBatch b .cancelled a) := by
  have hs := not_silent_of_takes h
  have htaken := ending_taken (b := b) (code := 3) Build.beginCancel s rest (by decide) hs hl
  refine ⟨_, htaken, ?_⟩
  have hu : (s.build b).state ≠ .unused := by rcases hst with h | h <;> simp [h]
  rw [orderCancel, buildCommand_takes h hu, orderCancelOn]
  simp only [build_taken]
  have hrun : acceptCancel b { s with rxBuffer := rest, pairing := none } = settleEnding b (withdrawBatch b .cancelled
      (answer 3 (some b) .accepted (updateBuild b Build.beginCancel { s with rxBuffer := rest, pairing := none }))) :=
    runIfDue_held (htaken.held (withdrawBatch_removes .cancelled) hheld)
  rcases hst with hst | hst
  · simp only [hst, hend, if_true]
    exact hrun
  · simp only [hst, hend, Option.isNone_iff_eq_none, if_neg ho, if_true]
    exact hrun

/-- A release on a build in OPEN or HELD with no ending RELEASE (R58 to R60). -/
theorem buildRelease_accepts {f : Frame} (h : TakesBuildCommand s 5 f rest b) (hheld : PortHeld s)
    (hst : (s.build b).state = .opened ∨ (s.build b).state = .held) (hend : (s.build b).ending ≠ .release)
    (hl : s.txQueue.length < 8) :
    ∃ a, EndingTaken b 5 Build.beginRelease rest s a ∧ buildRelease s = settleEnding b (releaseEntries b a) := by
  have hs := not_silent_of_takes h
  have htaken := ending_taken (b := b) (code := 5) Build.beginRelease s rest (by decide) hs hl
  refine ⟨_, htaken, ?_⟩
  have hu : (s.build b).state ≠ .unused := by rcases hst with h | h <;> simp [h]
  rw [buildRelease, buildCommand_takes h hu, buildReleaseOn]
  simp only [build_taken]
  have hrun : acceptRelease b { s with rxBuffer := rest, pairing := none } = settleEnding b (releaseEntries b
      (answer 5 (some b) .accepted (updateBuild b Build.beginRelease { s with rxBuffer := rest, pairing := none }))) :=
    runIfDue_held (htaken.held releaseEntries_removes hheld)
  rcases hst with hst | hst <;>
  · simp only [hst, if_neg hend]
    exact hrun

/-- The final scan that falls due gives way to a rescan that is due (R135; log entry 26). -/
theorem mergeDue_final (due : Option ScanKind) :
    mergeDue due .final = if due = some .rescan then some .rescan else some .final := by
  rcases due with _ | k
  · rfl
  · cases k <;> rfl

/-- A build in OPEN or HELD with no entry settles (R57, R60). -/
theorem Build.settles_of {x : Build} (hst : x.state = .opened ∨ x.state = .held) (hplan : x.plan = []) :
    x.settles = true := by
  rcases hst with h | h <;> simp [Build.settles, inOpenOrHeld, h, hplan]

/-- A build with an entry does not settle (R57, R60). -/
theorem Build.not_settles {x : Build} (hplan : x.plan ≠ []) : x.settles = false := by
  simp [Build.settles, hplan]

/-- A cancel that settles offers one frame (R57). -/
theorem settlingFrames_cancel_length {x : Build} (he : x.ending = .cancel) : (settlingFrames b x).length ≤ 1 := by
  rw [settlingFrames, he]
  split <;> simp

/-- A cancel that settles on an all-deck grid empties the build, on any other it makes the final scan due (R57). -/
theorem Build.settled_cancel_cases {x : Build} (h : x.settles = true) (he : x.ending = .cancel) :
    x.settled.ending = .noEnding ∧ x.settled.holdOrigin = .noOrigin ∧
      ((∀ i : Fin 24, x.built.height[i] = 0) →
        x.settled.state = .empty ∧ x.settled.order = none ∧ x.settled.lines = []) ∧
      ((∃ i : Fin 24, x.built.height[i] ≠ 0) →
        x.settled.state = .closing ∧ x.settled.order = x.order ∧ x.settled.lines = x.lines ∧
        x.settled.scanDue = if x.scanDue = some .rescan then some .rescan else some .final) := by
  rw [Build.settled_cancel h he]
  by_cases hdeck : allDeck x.built = true
  · rw [if_pos hdeck]
    exact ⟨rfl, rfl, fun _ => ⟨rfl, rfl, rfl⟩, fun ⟨i, hi⟩ => absurd ((allDeck_iff _).mp hdeck i) hi⟩
  · rw [if_neg hdeck]
    refine ⟨rfl, rfl, fun h0 => absurd ((allDeck_iff _).mpr h0) hdeck, fun _ => ⟨rfl, rfl, rfl, mergeDue_final _⟩⟩

/-- An ending that has nothing to remove settles at once: the reply and the frames of the settling stand behind the frames
held. -/
theorem EndingTaken.settled_at_once (h : EndingTaken b code g rest s a) (hs : s.station ≠ .silent)
    (hroom : s.txQueue.length + 1 + (settlingFrames b (g (s.build b))).length ≤ 8) :
    ∃ t, settleEnding b a = t ∧ t.build b = (g (s.build b)).settled ∧ (∀ c, c ≠ b → t.build c = s.build c) ∧
      t.txQueue = s.txQueue ++ TxFrame.fresh (.reply 3 (BitVec.ofNat 8 code) (some b) .accepted 0) ::
        (settlingFrames b (g (s.build b))).map TxFrame.fresh ∧
      t = { s with
        rxBuffer := rest, pairing := none, txQueue := t.txQueue, buildA := t.buildA, buildB := t.buildB } := by
  have hlength : a.txQueue.length = s.txQueue.length + 1 := by rw [h.queue]; simp
  refine ⟨_, rfl, by rw [settleEnding_build, h.same], fun c hc => by rw [settleEnding_other hc, h.other c hc], ?_⟩
  rw [settleEnding_room (by rw [h.frame]; exact hs) (by rw [hlength, h.same]; exact hroom), h.same]
  refine ⟨by rw [h.queue]; simp, ?_⟩
  rw [updateBuild_eq, h.frame]

end Sys2Proof.Machine

open Sys2Proof Sys2Proof.Machine

/-- Settles O36: `settled_at_once` without entries, the run of withdrawals and the settling after it with them. -/
theorem orderCancelGivesUpTheOrder : Obligations.OrderCancelGivesUpTheOrder := by
  intro s f rest b h hheld
  have hs := not_silent_of_takes h
  refine ⟨fun hplan hlen hrow => ?_, fun hst ho hend hnodup hlen => ?_⟩
  · rcases hrow with hst | ⟨hst, ho, hend⟩
    · obtain ⟨u, hg, hub, huo, hueq⟩ := taken_updateBuild Build.unload s rest b
      obtain ⟨q, hq⟩ : ∃ q, q = s.txQueue ++ [TxFrame.fresh (.reply 3 3 (some b) .accepted 0),
        TxFrame.fresh (.buildReport (reportOf b (u.build b)))] := ⟨_, rfl⟩
      have hrun : orderCancel s = { u with txQueue := q } := by
        have hanswer := answer_thenReport (s := u) (b := b) 3 .accepted True (by rw [hueq]; exact hs)
          (by rw [hueq]; exact hlen)
        rw [if_pos trivial, if_pos trivial] at hanswer
        rw [orderCancel, buildCommand_takes h (by simp [hst]), orderCancelOn]
        simp only [build_taken, hst]
        rw [← hg, hanswer, hq, hueq]
        rfl
      have hbuilds (c : BuildId) : (showBeacons { u with txQueue := q }).build c = u.build c := by
        rw [showBeacons_build, build_queue]
      refine ⟨_, congrArg done hrun, ?_, fun _ => ?_, fun hne => absurd hst hne, ?_, fun c hc => ?_, ?_, ?_⟩
      · rw [hbuilds, hub]; rfl
      · rw [hbuilds, hub]; exact ⟨rfl, rfl, rfl⟩
      · rw [hbuilds, hub]; rfl
      · rw [hbuilds, huo c hc]
      · rw [hbuilds, ← hq, showBeacons_txQueue]
      · rw [hueq]
        rfl
    · obtain ⟨a, ha, hrun⟩ := orderCancel_accepts h hheld hst ho hend (by omega)
      have hsettles : (Build.beginCancel (s.build b)).settles = true := Build.settles_of hst hplan
      have hframes := settlingFrames_cancel (b := b) hsettles rfl
      obtain ⟨hending, -, hempty, hclosing⟩ := Build.settled_cancel_cases hsettles rfl
      obtain ⟨t, ht, htb, hto, htq, hframe⟩ := ha.settled_at_once hs (by rw [hframes]; exact Nat.add_le_add_right (Nat.add_le_add_right hlen 1) 1)
      have hbatch : withdrawBatch b .cancelled a = a := by
        rw [withdrawBatch, if_pos]
        rw [ha.same]
        simp [movable, Build.beginCancel, hplan]
      rw [hbatch, ht] at hrun
      have hnot : (s.build b).state ≠ .loading := by rcases hst with h | h <;> simp [h]
      refine ⟨_, congrArg done hrun, ?_, fun hdeck => ?_, fun _ hi => ?_, ?_, fun c hc => ?_, ?_, ?_⟩
      · rw [showBeacons_build, htb, hending, hend]
      · rw [showBeacons_build, htb]
        exact hempty (hdeck.resolve_left hnot)
      · rw [showBeacons_build, htb]
        exact hclosing hi
      · rw [showBeacons_build, htb]
        exact (Build.settled_kept _).2.1
      · rw [showBeacons_build, hto c hc]
      · rw [showBeacons_txQueue, showBeacons_build, htq, hframes, htb]
        rfl
      · exact showBeacons_of_eq hframe
  · obtain ⟨a, ha, hrun⟩ := orderCancel_accepts h hheld hst ho hend (by omega)
    obtain ⟨w, hwdef⟩ : ∃ w, w = withdrawBatch b .cancelled a := ⟨_, rfl⟩
    have hw := withdrawBatch_removes (b := b) (s := a) .cancelled
    have hmovable : movable (a.build b) = movable (s.build b) := by rw [ha.same]; rfl
    have haplan : (a.build b).plan = (s.build b).plan := by rw [ha.same]; rfl
    rw [← hwdef] at hrun
    rw [← hwdef, hmovable] at hw
    have hmem (e : PlanEntry) : e ∈ (w.build b).plan ↔ e ∈ (s.build b).plan ∧ e.state = .placing := by
      rw [hw.mem_plan, haplan]
      refine and_congr_right fun he => ⟨fun hgone => ?_, fun hplacing r hr htag => ?_⟩
      · by_contra hne
        exact hgone _ (List.mem_map_of_mem ((mem_movable _ _).mpr ⟨he, hne⟩)) rfl
      · obtain ⟨e', he', rfl⟩ := List.mem_map.mp hr
        obtain ⟨hmem', hne⟩ := (mem_movable _ _).mp he'
        exact hne (eq_of_tag_eq hnodup he hmem' htag ▸ hplacing)
    have hsame := hw.withdraws.same
    rw [ha.same] at hsame
    have hwstate : (w.build b).state = (s.build b).state := by rw [hsame]; rfl
    have hwending : (w.build b).ending = .cancel := by rw [hsame]; rfl
    have hworder : (w.build b).order = (s.build b).order := by rw [hsame]; rfl
    have hwbuilt : (w.build b).built = (s.build b).built := by rw [hsame]; rfl
    have hwdue : (w.build b).scanDue = (s.build b).scanDue := by rw [hsame]; rfl
    have hwithdrawn {e : PlanEntry} (he : e ∈ (s.build b).plan) (hne : e.state ≠ .placing) :
        Removal.withdrawn .cancelled e ∈ (movable (s.build b)).map (.withdrawn .cancelled) :=
      List.mem_map_of_mem ((mem_movable _ _).mpr ⟨he, hne⟩)
    have hlength : ((movable (s.build b)).map (Removal.withdrawn .cancelled)).length ≤ (s.build b).plan.length := by
      rw [List.length_map]
      exact List.length_filter_le _ _
    have hdistinct : (((movable (s.build b)).map (Removal.withdrawn .cancelled)).map
        fun r => r.entry.tag).Nodup := by
      rw [List.map_map]
      exact hnodup.sublist (List.Sublist.map _ List.filter_sublist)
    have hone := settlingFrames_cancel_length (b := b) hwending
    obtain ⟨held, added, hqueue, hsub, hkept, -, hall⟩ := ha.txQueue hs hw (by omega)
    have hmiss {e : PlanEntry} (he : e ∈ (s.build b).plan) (hwon : e.state = .won) :
        TxFrame.fresh (.miss e.tag .cancelled) ∈ (added ++ settlingFrames b (w.build b)).map TxFrame.fresh :=
      List.mem_map_of_mem (List.mem_append_left _ (hall _ e (hwithdrawn he (by simp [hwon])) (by simp [hwon])))
    have hbuild : (showBeacons (settleEnding b w)).build b = (w.build b).settled := by
      rw [showBeacons_build, settleEnding_build]
    obtain ⟨hplankept, hbuiltkept, -, -⟩ := (w.build b).settled_kept
    refine ⟨_, congrArg done hrun, fun e => ?_, fun e he hwon => ⟨?_, ?_⟩, fun e he hcontested => ?_,
      ⟨held, _, by rw [showBeacons_txQueue, hqueue]; rfl, hsub, hkept, fun e he hwon => hmiss he hwon⟩,
      fun hstays => ?_, fun hnone => ?_, ?_, fun c hc => ?_, ?_⟩
    · rw [hbuild, hplankept, hmem]
    · exact settleEnding_not_picked hw (hwithdrawn he (by simp [hwon])) (by simp [Removal.entry, hwon])
    · rw [showBeacons_txQueue, hqueue]
      exact List.mem_append_right _ (List.mem_cons_of_mem _ (hmiss he hwon))
    · exact ha.loses hw hdistinct (hwithdrawn he (by simp [hcontested])) hcontested
    · obtain ⟨e, he, hplacing⟩ := hstays
      have hne : (w.build b).plan ≠ [] := List.ne_nil_of_mem ((hmem e).mpr ⟨he, hplacing⟩)
      rw [hbuild, Build.settled_of_not (Build.not_settles hne)]
      exact ⟨hwstate, hwending, hworder⟩
    · have hnil : (w.build b).plan = [] :=
        List.eq_nil_iff_forall_not_mem.mpr fun e he => hnone e ((hmem e).mp he).1 ((hmem e).mp he).2
      have hsettles : (w.build b).settles = true := Build.settles_of (by rw [hwstate]; exact hst) hnil
      obtain ⟨hending, -, hempty, hclosing⟩ := Build.settled_cancel_cases hsettles hwending
      rw [hwbuilt] at hempty hclosing
      rw [hbuild]
      refine ⟨hending, ?_, fun h0 => (hempty h0).2, fun hi => ?_, ?_⟩
      · split_ifs with h0
        · exact (hempty h0).1
        · exact (hclosing (not_forall.mp h0)).1
      · obtain ⟨-, horder, -, hdue⟩ := hclosing hi
        exact ⟨horder.trans hworder, by rw [hdue, hwdue]⟩
      · rw [showBeacons_txQueue, hqueue, settlingFrames_cancel hsettles hwending]
        simp
    · rw [hbuild, hbuiltkept, hwbuilt]
    · rw [showBeacons_build, settleEnding_other hc, hw.withdraws.other c hc, ha.other c hc]
    · exact showBeacons_of_eq (ha.frame_settled hw)
end

section
/-!
BUILD RELEASE (O38): the CONTESTED and WON entries go as by a cancel, the stranded ones without a MISS, and an entry stays
while its PLACE is in flight (R58 to R60).
-/
namespace Sys2Proof.Machine

variable {b : BuildId} {s : State}

/-- A PLACE without the discard mark is in flight for an entry (R59, R60). -/
theorem placeInFlight_iff (b : BuildId) (e : PlanEntry) (s : State) : placeInFlight b e s = true ↔
    ∃ g, s.inFlight = some g ∧ g.kind = .place ∧ g.build = b ∧ g.tag = some e.tag ∧ g.discard = false := by
  unfold placeInFlight
  split
  · rename_i h
    simp [h]
  · rename_i f h
    simp [h, and_assoc]

/-- An entry that stays through a release: PLACING with its PLACE in flight (R59). -/
def staysThroughRelease (b : BuildId) (s : State) (e : PlanEntry) : Prop :=
  e ∈ (s.build b).plan ∧ e.state = .placing ∧ placeInFlight b e s = true

theorem mem_stranded (b : BuildId) (s : State) (e : PlanEntry) :
    e ∈ strandedEntries b s ↔ e ∈ (s.build b).plan ∧ e.state = .placing ∧ placeInFlight b e s = false := by
  simp [strandedEntries]

/-- The removals of a release (R59). -/
def releaseRemovals (b : BuildId) (s : State) : List Removal :=
  (movable (s.build b)).map (.withdrawn .cancelled) ++ (strandedEntries b s).map .dropped

theorem releaseRemovals_length (b : BuildId) (s : State) :
    (releaseRemovals b s).length ≤ (s.build b).plan.length := by
  have hsplit := List.length_eq_length_filter_add (l := (s.build b).plan) (fun e : PlanEntry => e.state != .placing)
  have hle : (strandedEntries b s).length ≤
      ((s.build b).plan.filter (fun e : PlanEntry => !(e.state != .placing))).length := by
    rw [strandedEntries, ← List.countP_eq_length_filter, ← List.countP_eq_length_filter]
    refine List.countP_mono_left fun e _ h => ?_
    simp only [Bool.and_eq_true, beq_iff_eq] at h
    simp [h.1]
  rw [releaseRemovals, List.length_append, List.length_map, List.length_map, movable]
  omega

theorem releaseRemovals_nodup (h : ((s.build b).plan.map PlanEntry.tag).Nodup) :
    ((releaseRemovals b s).map fun r => r.entry.tag).Nodup := by
  rw [releaseRemovals, List.map_append, List.map_map, List.map_map, List.nodup_append]
  refine ⟨h.sublist (List.Sublist.map _ List.filter_sublist), h.sublist (List.Sublist.map _ List.filter_sublist), ?_⟩
  intro t ht t' ht' heq
  obtain ⟨e, he, rfl⟩ := List.mem_map.mp ht
  obtain ⟨e', he', rfl⟩ := List.mem_map.mp ht'
  obtain ⟨hmem, hne⟩ := (mem_movable _ _).mp he
  obtain ⟨hmem', hplacing, -⟩ := (mem_stranded _ _ _).mp he'
  exact hne (eq_of_tag_eq h hmem hmem' heq ▸ hplacing)

/-- What the removals of a release leave on the plan list (R59). -/
theorem release_leaves {a w : State} (h : ((a.build b).plan.map PlanEntry.tag).Nodup)
    (hw : Removes b a (releaseRemovals b a) w) (e : PlanEntry) :
    e ∈ (w.build b).plan ↔ staysThroughRelease b a e := by
  rw [hw.mem_plan, staysThroughRelease]
  refine and_congr_right fun he => ⟨fun hgone => ?_, fun ⟨hplacing, hflight⟩ r hr htag => ?_⟩
  · have hplacing : e.state = .placing := by
      by_contra hne
      exact hgone _ (List.mem_append_left _ (List.mem_map_of_mem ((mem_movable _ _).mpr ⟨he, hne⟩))) rfl
    refine ⟨hplacing, ?_⟩
    by_contra hflight
    exact hgone _ (List.mem_append_right _ (List.mem_map_of_mem ((mem_stranded _ _ _).mpr
      ⟨he, hplacing, by simpa using hflight⟩))) rfl
  · rcases List.mem_append.mp hr with hr | hr <;> obtain ⟨e', he', rfl⟩ := List.mem_map.mp hr
    · obtain ⟨hmem', hne⟩ := (mem_movable _ _).mp he'
      exact hne (eq_of_tag_eq h he hmem' htag ▸ hplacing)
    · obtain ⟨hmem', -, hno⟩ := (mem_stranded _ _ _).mp he'
      rw [← eq_of_tag_eq h he hmem' htag, hflight] at hno
      exact Bool.true_eq_false_eq_False hno

/-- Beginning a release leaves what it removes (R59). -/
theorem EndingTaken.releaseRemovals {rest : List Frame} {a : State} (h : EndingTaken b 5 Build.beginRelease rest s a) :
    releaseRemovals b a = releaseRemovals b s ∧ ∀ e, staysThroughRelease b a e ↔ staysThroughRelease b s e := by
  have hplan : (a.build b).plan = (s.build b).plan := by rw [h.same]; rfl
  have hflight : a.inFlight = s.inFlight := by rw [h.frame]
  have hplace (e : PlanEntry) : placeInFlight b e a = placeInFlight b e s := by
    rw [placeInFlight, placeInFlight, hflight]
  refine ⟨?_, fun e => by rw [staysThroughRelease, staysThroughRelease, hplan, hplace]⟩
  simp only [Machine.releaseRemovals, movable, strandedEntries, hplan, hplace]

end Sys2Proof.Machine

open Sys2Proof Sys2Proof.Machine

/-- Settles O38: `settled_at_once` without entries, the run of removals and the settling after it with them. -/
theorem buildReleaseSendsThePalletAway : Obligations.BuildReleaseSendsThePalletAway := by
  intro s f rest b h hheld hst hend
  have hs := not_silent_of_takes h
  refine ⟨fun hplan hlen => ?_, fun stays hstays hnodup hlen => ?_⟩
  · obtain ⟨a, ha, hrun⟩ := buildRelease_accepts h hheld hst hend (by omega)
    have hsettles : (Build.beginRelease (s.build b)).settles = true := Build.settles_of hst hplan
    have hframes := settlingFrames_release (b := b) hsettles rfl
    obtain ⟨t, ht, htb, hto, htq, hframe⟩ := ha.settled_at_once hs (by
      rw [hframes]; exact Nat.add_le_add_right (Nat.add_le_add_right hlen 1) 2)
    have hnone : releaseEntries b a = a := by
      have hplan' : (a.build b).plan = [] := by rw [ha.same]; exact hplan
      simp [releaseEntries, withdrawMovable, movable, strandedEntries, hplan']
    rw [hnone, ht] at hrun
    refine ⟨_, congrArg done hrun, ?_, fun c hc => ?_, ?_, ?_⟩
    · rw [showBeacons_build, htb, Build.settled_release hsettles rfl]
      rfl
    · rw [showBeacons_build, hto c hc]
    · rw [showBeacons_txQueue, showBeacons_build, htq, hframes, htb]
      rfl
    · exact showBeacons_of_eq hframe
  · obtain ⟨a, ha, hrun⟩ := buildRelease_accepts h hheld hst hend (by omega)
    obtain ⟨w, hwdef⟩ : ∃ w, w = releaseEntries b a := ⟨_, rfl⟩
    have hw : Removes b a (releaseRemovals b a) w := hwdef ▸ releaseEntries_removes
    obtain ⟨hremovals, hstaysa⟩ := ha.releaseRemovals
    have haplan : (a.build b).plan = (s.build b).plan := by rw [ha.same]; rfl
    have hmem (e : PlanEntry) : e ∈ (w.build b).plan ↔ stays e := by
      rw [release_leaves (by rw [haplan]; exact hnodup) hw, hstaysa, hstays, staysThroughRelease, placeInFlight_iff]
    rw [← hwdef] at hrun
    rw [hremovals] at hw
    have hsame := hw.withdraws.same
    rw [ha.same] at hsame
    have hwstate : (w.build b).state = (s.build b).state := by rw [hsame]; rfl
    have hwending : (w.build b).ending = .release := by rw [hsame]; rfl
    have hworder : (w.build b).order = (s.build b).order := by rw [hsame]; rfl
    have hwbuilt : (w.build b).built = (s.build b).built := by rw [hsame]; rfl
    have hwdue : (w.build b).scanDue = none := by rw [hsame]; rfl
    have hwflight : (w.build b).scanInFlight =
        (s.build b).scanInFlight.map (fun g => { g with release := true }) := by rw [hsame]; rfl
    have hwswap : (w.build b).swapDue = (s.build b).swapDue := by rw [hsame]; rfl
    have hwithdrawn {e : PlanEntry} (he : e ∈ (s.build b).plan) (hne : e.state ≠ .placing) :
        Removal.withdrawn .cancelled e ∈ releaseRemovals b s :=
      List.mem_append_left _ (List.mem_map_of_mem ((mem_movable _ _).mpr ⟨he, hne⟩))
    have hlength := releaseRemovals_length b s
    obtain ⟨htwo, hother⟩ := settlingFrames_other (b := b) (w.build b)
    obtain ⟨held, added, hqueue, hsub, hkept, hmisses, hall⟩ := ha.txQueue hs hw (by omega)
    have hmiss {e : PlanEntry} (he : e ∈ (s.build b).plan) (hwon : e.state = .won) :
        TxFrame.fresh (.miss e.tag .cancelled) ∈ (added ++ settlingFrames b (w.build b)).map TxFrame.fresh :=
      List.mem_map_of_mem (List.mem_append_left _ (hall _ e (hwithdrawn he (by simp [hwon])) (by simp [hwon])))
    have hbuild : (showBeacons (settleEnding b w)).build b = (w.build b).settled := by
      rw [showBeacons_build, settleEnding_build]
    obtain ⟨hplankept, hbuiltkept, hflightkept, -⟩ := (w.build b).settled_kept
    have hsettles (hnil : (w.build b).plan = []) : (w.build b).settles = true :=
      Build.settles_of (by rw [hwstate]; exact hst) hnil
    have hsettled : (w.build b).settled.scanDue = none ∧ (w.build b).settled.order = (s.build b).order := by
      by_cases hnil : (w.build b).plan = []
      · rw [Build.settled_release (hsettles hnil) hwending]
        exact ⟨hwdue, hworder⟩
      · rw [Build.settled_of_not (Build.not_settles hnil)]
        exact ⟨hwdue, hworder⟩
    refine ⟨_, congrArg done hrun, fun e => ?_, fun e he hwon => ⟨?_, ?_⟩, fun e he hcontested => ?_,
      fun e he hplacing hgone => ⟨?_, fun m hm => ?_⟩,
      ⟨held, _, by rw [showBeacons_txQueue, hqueue]; rfl, hsub, hkept, fun e he hwon => hmiss he hwon⟩,
      by rw [hbuild, hsettled.1], by rw [hbuild, hflightkept, hwflight],
      fun hstay => ?_, fun hnone => ?_, by rw [hbuild, hbuiltkept, hwbuilt], by rw [hbuild, hsettled.2],
      fun c hc => ?_, ?_⟩
    · rw [hbuild, hplankept, hmem]
    · exact settleEnding_not_picked hw (hwithdrawn he (by simp [hwon])) (by simp [Removal.entry, hwon])
    · rw [showBeacons_txQueue, hqueue]
      exact List.mem_append_right _ (List.mem_cons_of_mem _ (hmiss he hwon))
    · exact ha.loses hw (releaseRemovals_nodup hnodup) (hwithdrawn he (by simp [hcontested])) hcontested
    · have hdropped : Removal.dropped e ∈ releaseRemovals b s := by
        refine List.mem_append_right _ (List.mem_map_of_mem ((mem_stranded _ _ _).mpr ⟨he, hplacing, ?_⟩))
        by_contra hflight
        rw [Bool.not_eq_false, placeInFlight_iff] at hflight
        exact hgone ((hstays e).mpr ⟨he, hplacing, hflight⟩)
      exact settleEnding_not_picked hw hdropped (by simp [Removal.entry, hplacing])
    · rw [showBeacons_txQueue, hqueue, List.map_append, List.mem_append, List.map_cons, List.mem_cons] at hm
      rcases hm with hm | hm | hm
      · exact hsub.subset hm
      · cases hm
      · rw [List.map_map, List.mem_map] at hm
        obtain ⟨body, hbody, hmb⟩ := hm
        have hbm : body = .miss e.tag m := hmb
        rcases List.mem_append.mp hbody with hbody | hbody
        · obtain ⟨m', e', hbody', hr⟩ := hmisses body hbody
          rw [hbm, TxBody.miss.injEq] at hbody'
          rcases List.mem_append.mp hr with hr | hr <;> obtain ⟨e'', he'', heq⟩ := List.mem_map.mp hr <;> cases heq
          obtain ⟨hmem', hne⟩ := (mem_movable _ _).mp he''
          exact absurd (eq_of_tag_eq hnodup he hmem' hbody'.1 ▸ hplacing) hne
        · exact absurd hbm ((hother body hbody).2 _ _)
    · obtain ⟨e, hstay⟩ := hstay
      have hne : (w.build b).plan ≠ [] := List.ne_nil_of_mem ((hmem e).mpr hstay)
      rw [hbuild, Build.settled_of_not (Build.not_settles hne)]
      exact ⟨hwstate, hwending, hwswap⟩
    · have hnil : (w.build b).plan = [] :=
        List.eq_nil_iff_forall_not_mem.mpr fun e he => hnone e ((hmem e).mp he)
      have hrelease := Build.settled_release (hsettles hnil) hwending
      have hframes := settlingFrames_release (b := b) (hsettles hnil) hwending
      rw [hworder, hwbuilt] at hframes
      rw [hbuild]
      refine ⟨by rw [hrelease]; rfl, by rw [hrelease]; rfl, by rw [hrelease]; rfl, ?_, ?_⟩ <;>
      · rw [showBeacons_txQueue, hqueue, hframes]
        simp
    · rw [showBeacons_build, settleEnding_other hc, hw.withdraws.other c hc, ha.other c hc]
    · exact showBeacons_of_eq (ha.frame_settled hw)
end

section
/-!
The line clear (O41) and the setup frames (O43, O44): what each block keeps, which checks a setup frame passes, and the
frames that READY offers.
-/
namespace Sys2Proof.Machine

variable {s : State} {f : Frame} {rest : List Frame}

/-! ### The line clear (R61, R165) -/

/-- The state of a build after a line clear (R61). -/
theorem clearedState_eq (x : Build) : clearedState x =
    if x.state = .unused then .unused
    else if x.state = .swapping ∨ (x.state ≠ .empty ∧ ∃ i : Fin 24, x.built.height[i] ≠ 0) then .held
    else .empty := by
  have hdeck : (∃ i : Fin 24, x.built.height[i] ≠ 0) ↔ ¬ allDeck x.built = true := by
    rw [allDeck_iff, not_forall]
  simp only [hdeck]
  rw [clearedState]
  cases hd : allDeck x.built <;> cases hst : x.state <;> simp

/-- With no frame in transmission the line clear empties the transmit queue (R27, R165). -/
theorem emptyTxQueue_free (h : ∀ g ∈ s.txQueue, g.inTransmission = false) : (emptyTxQueue s).txQueue = [] := by
  rw [emptyTxQueue]
  simpa [List.filter_eq_nil_iff] using h

/-- A change of state is reported where the queue has room (R42). -/
theorem reportChange_room {b : BuildId} (before : BuildState) (hs : s.station ≠ .silent)
    (hl : s.txQueue.length < txCapacity) :
    reportChange b before s = { s with
      txQueue := s.txQueue ++
        if (s.build b).state = before then [] else [TxFrame.fresh (.buildReport (reportOf b (s.build b)))] } := by
  rw [reportChange]
  split_ifs
  · simp
  · exact reportBuild_room hs hl

/-- After a line clear nothing is due and nothing waits, so the arbiter grants nothing (R110). -/
theorem runArbiter_cleared {x y : Build} (hA : s.buildA = x.cleared) (hB : s.buildB = y.cleared) (hpick : s.pick = []) :
    runArbiter s = s :=
  runArbiter_nothing (by rw [hA]; rfl) (by rw [hB]; rfl) (by rw [hA]; rfl) (by rw [hB]; rfl)
    (.inr (by rw [firstPlace, hpick]; rfl))

/-- After READY the line clear leaves the station in RUN (R165). -/
theorem stationAfterClear_run (hs : s.station ≠ .silent) (hc : s.station ≠ .awaitConfig) :
    stationAfterClear s.station = .run := by
  cases h : s.station
  · exact absurd h hc
  · rfl
  · rfl
  · rfl
  · exact absurd h hs

/-- The line clear: the blocks, the REPLY, and the BUILD REPORT of each build whose state changed (R61, R165). -/
theorem lineClear_eq (hs : s.station ≠ .silent) (hc : s.station ≠ .awaitConfig)
    (hfree : ∀ g ∈ s.txQueue, g.inTransmission = false) :
    lineClear s = { clearBlocks s with
      station := .run
      txQueue := TxFrame.fresh (.reply 3 9 none .accepted 0) ::
        ((if s.buildA.state = s.buildA.cleared.state then []
          else [TxFrame.fresh (.buildReport (reportOf .A s.buildA.cleared))]) ++
        (if s.buildB.state = s.buildB.cleared.state then []
          else [TxFrame.fresh (.buildReport (reportOf .B s.buildB.cleared))])) } := by
  obtain ⟨u, hu⟩ : ∃ u, u = clearBlocks s := ⟨_, rfl⟩
  have hrunning : u.station = .run := by rw [hu]; exact stationAfterClear_run hs hc
  have hstation : u.station ≠ .silent := by simp [hrunning]
  have hempty : u.txQueue = [] := by rw [hu]; exact emptyTxQueue_free hfree
  have hA : u.buildA = s.buildA.cleared := by rw [hu]; rfl
  have hB : u.buildB = s.buildB.cleared := by rw [hu]; rfl
  have hpick : u.pick = [] := by rw [hu]; rfl
  have hanswer : answer 9 none .accepted u = { u with txQueue := [TxFrame.fresh (.reply 3 9 none .accepted 0)] } := by
    rw [answer_room _ _ _ hstation (by simp [hempty, txCapacity]), hempty]
    rfl
  have hreportA := reportChange_room (s := { u with txQueue := [TxFrame.fresh (.reply 3 9 none .accepted 0)] })
    (b := .A) s.buildA.state hstation (by simp [txCapacity])
  rw [lineClear, ← hu, hanswer, hreportA]
  rw [reportChange_room _ (by exact hstation) (by
      simp only [List.length_append, txCapacity]
      split_ifs <;> simp), runArbiter_cleared (by exact hA) (by exact hB) (by exact hpick)]
  simp only [State.build, hA, hB, List.cons_append, List.nil_append, hrunning, eq_comm (a := s.buildA.state),
    eq_comm (a := s.buildB.state)]

/-! ### The checks of the setup frames (R158, R159) -/

/-- The cross check of CLOSE_DIST against EYE_DIST and EYE_TOL (R158, R159). -/
theorem crossCheck_iff (c d t : Count) : crossCheck c d t = true ↔ c.toNat + t.toNat < d.toNat := by
  rw [crossCheck, decide_eq_true_eq]
  omega

/-- The checks of a LINE SETUP (R158). -/
theorem lineSetupOk_iff (v : LineSetup) (held : Option Setup1) : lineSetupOk v held = true ↔
    1 ≤ v.closeDist.toNat ∧ v.closeDist.toNat ≤ 32767 ∧ v.guardDist.toNat < v.closeDist.toNat ∧
      ∀ h, held = some h → v.closeDist.toNat + h.eyeTol.toNat < h.eyeDist.toNat := by
  cases held with
  | none =>
    simp only [lineSetupOk, Bool.and_eq_true, decide_eq_true_eq, reduceCtorEq, false_imp_iff, implies_true, and_true]
    omega
  | some h =>
    simp only [lineSetupOk, Bool.and_eq_true, decide_eq_true_eq, crossCheck_iff, Option.some.injEq, forall_eq']
    omega

/-- The checks of a STATION SETUP 1 (R159). -/
theorem setup1Ok_iff (w : Setup1) (held : Option LineSetup) : setup1Ok w held = true ↔
    w.eyeDist.toNat + w.eyeTol.toNat ≤ 32767 ∧ w.pickOpen.toNat < w.pickClose.toNat ∧
      w.pickClose.toNat ≤ 32767 ∧ w.creditsA ≤ 7 ∧ w.creditsB ≤ 7 ∧ w.creditsA + w.creditsB ≤ 8 ∧
      1 ≤ w.creditsA + w.creditsB ∧
      ∀ h, held = some h → h.closeDist.toNat + w.eyeTol.toNat < w.eyeDist.toNat := by
  cases held with
  | none =>
    simp only [setup1Ok, Bool.and_eq_true, decide_eq_true_eq, reduceCtorEq, false_imp_iff, implies_true, and_true]
    omega
  | some h =>
    simp only [setup1Ok, Bool.and_eq_true, decide_eq_true_eq, crossCheck_iff, Option.some.injEq, forall_eq']
    omega

/-! ### The setup frames (R157) -/

/-- A setup command as its frame is taken: which values it takes and whether they pass (R157 to R160). -/
structure SetupTaken (cmd : Instr) (code : Nat) (ok : Prop) (l : Option LineSetup) (a : Option Setup1)
    (c : Option Setup2) (rest : List Frame) (s : State) : Prop where
  runs : ∃ (passes : Bool) (take : State → State), (passes = true ↔ ok) ∧
    take { s with rxBuffer := rest } = { s with rxBuffer := rest, lineSetup := l, setup1 := a, setup2 := c } ∧
    exec cmd s = done (onSetup code passes take { s with rxBuffer := rest })

theorem lineSetup_taken (hrx : s.rxBuffer = f :: rest) (hcode : isStartUp 1 f = true) :
    SetupTaken .lineSetup 1 (lineSetupOk (lineSetupOf f.payload) s.setup1 = true) (some (lineSetupOf f.payload))
      s.setup1 s.setup2 rest s := by
  refine ⟨_, _, Iff.rfl, ?_, congrArg done (handOn_takes _ _ hrx hcode)⟩
  rfl

theorem setupTargetHere_iff : setupTargetHere f s = true ↔ s.stationNumber = some (detailOf f % 16) := by
  simp [setupTargetHere]

theorem stationSetup1_taken (hrx : s.rxBuffer = f :: rest) (hcode : isStartUp 2 f = true)
    (hhere : s.stationNumber = some (detailOf f % 16)) :
    SetupTaken .stationSetup1 2 (setup1Ok (setup1Of f.payload) s.lineSetup = true) s.lineSetup
      (some (setup1Of f.payload)) s.setup2 rest s := by
  refine ⟨_, fun u => { u with setup1 := some (setup1Of f.payload) }, Iff.rfl, rfl,
    congrArg done ((handOn_takes _ _ hrx hcode).trans (if_pos ?_))⟩
  exact setupTargetHere_iff.mpr hhere

theorem stationSetup2_taken (hrx : s.rxBuffer = f :: rest) (hcode : isStartUp 3 f = true)
    (hhere : s.stationNumber = some (detailOf f % 16)) {ok : Prop} (hok : ok) :
    SetupTaken .stationSetup2 3 ok s.lineSetup s.setup1 (some (setup2Of f.payload)) rest s := by
  refine ⟨true, fun u => { u with setup2 := some (setup2Of f.payload) }, by simp [hok], rfl,
    congrArg done ((handOn_takes _ _ hrx hcode).trans (if_pos ?_))⟩
  exact setupTargetHere_iff.mpr hhere

/-- A setup frame that passes its checks in AWAIT CONFIG is taken and answered (R157, R161). -/
theorem onSetup_accepts {code : Nat} {passes : Bool} {take : State → State} (hst : s.station = .awaitConfig)
    (hp : passes = true) : onSetup code passes take s = readyIfComplete (answerSetup code .accepted (take s)) := by
  simp [onSetup, hst, hp]

/-- A setup frame in SILENT, and a STATION SETUP frame for another station, is only removed (R157, R175). -/
theorem setup_ignored {code : Nat} {cmd : Instr}
    (h : (code, cmd) ∈ [(1, Instr.lineSetup), (2, .stationSetup1), (3, .stationSetup2)]) (hrx : s.rxBuffer = f :: rest)
    (hcode : isStartUp code f = true)
    (hignored : s.station = .silent ∨ code ≠ 1 ∧ s.stationNumber ≠ some (detailOf f % 16)) :
    exec cmd s = done { s with rxBuffer := rest } := by
  have hsilent (code : Nat) (ok : Bool) (take : State → State) (h : s.station = .silent) :
      onSetup code ok take { s with rxBuffer := rest } = { s with rxBuffer := rest } := by
    simp [onSetup, h]
  have helsewhere (h : s.stationNumber ≠ some (detailOf f % 16)) :
      ¬ setupTargetHere f { s with rxBuffer := rest } = true := fun ht => h (setupTargetHere_iff.mp ht)
  simp only [List.mem_cons, Prod.mk.injEq, List.not_mem_nil, or_false] at h
  rcases h with ⟨rfl, rfl⟩ | ⟨rfl, rfl⟩ | ⟨rfl, rfl⟩
  · refine congrArg done ((handOn_takes _ _ hrx hcode).trans (hsilent _ _ _ ?_))
    simpa using hignored
  all_goals
    refine congrArg done ((handOn_takes _ _ hrx hcode).trans ?_)
    rcases hignored with h | ⟨-, h⟩
    · simp only [hsilent _ _ _ h, ite_self]
    · exact if_neg (helsewhere h)

/-! ### READY (R161) -/

/-- A position at READY that stood at its power-on values (R41, R161). -/
theorem atReady_powerOn (credits : Nat) : Build.atReady credits Build.atPowerOn =
    { Build.atPowerOn with state := if credits = 0 then .unused else .empty } := by
  rw [Build.atReady]
  by_cases h : credits = 0
  · rw [if_neg (by omega), if_pos h]
    rfl
  · rw [if_pos (by omega), if_neg h]
    rfl

/-- A position with credits is reported at READY (R161). -/
theorem reportReady_room {b : BuildId} (hs : s.station ≠ .silent) (hl : s.txQueue.length < txCapacity) :
    reportReady b s = { s with
      txQueue := s.txQueue ++
        if s.credits b = 0 then [] else [TxFrame.fresh (.buildReport (reportOf b (s.build b)))] } := by
  rw [reportReady]
  by_cases h : s.credits b = 0
  · rw [if_neg (by omega), if_pos h, List.append_nil]
  · rw [if_pos (by omega), if_neg h, reportBuild_room hs hl]

/-- READY is not reached while a setup frame is missing (R161). -/
theorem readyIfComplete_missing (h : s.lineSetup = none ∨ s.setup1 = none ∨ s.setup2 = none) : readyIfComplete s = s := by
  rw [readyIfComplete, if_neg]
  rcases h with h | h | h <;> simp [h]

/-- READY, with room for its frames (R161). -/
theorem readyIfComplete_complete {l : LineSetup} {a : Setup1} {c : Setup2} (hl : s.lineSetup = some l)
    (ha : s.setup1 = some a) (hc : s.setup2 = some c) (hs : s.station ≠ .silent) (hroom : s.txQueue.length ≤ 5) :
    readyIfComplete s = { s with
      station := .run, streak := 0, cycles := 0
      buildA := s.buildA.atReady a.creditsA, buildB := s.buildB.atReady a.creditsB
      txQueue := s.txQueue ++ [TxFrame.fresh (.ready a.creditsA a.creditsB)] ++
        (if a.creditsA = 0 then [] else [TxFrame.fresh (.buildReport (reportOf .A (s.buildA.atReady a.creditsA)))]) ++
        (if a.creditsB = 0 then []
          else [TxFrame.fresh (.buildReport (reportOf .B (s.buildB.atReady a.creditsB)))]) } := by
  have hA : s.credits .A = a.creditsA := by simp [State.credits, State.own1, ha]
  have hB : s.credits .B = a.creditsB := by simp [State.credits, State.own1, ha]
  obtain ⟨u, hu⟩ : ∃ u : State, u = { s with
      txQueue := s.txQueue ++ [TxFrame.fresh (.ready a.creditsA a.creditsB)]
      station := .run, streak := 0, cycles := 0
      buildA := s.buildA.atReady a.creditsA, buildB := s.buildB.atReady a.creditsB } := ⟨_, rfl⟩
  have hstart : readyIfComplete s = reportReady .B (reportReady .A u) := by
    rw [readyIfComplete, if_pos (by simp [hl, ha, hc])]
    simp only [hA, hB, offer_room _ hs (show s.txQueue.length < txCapacity by simp only [txCapacity]; omega), hu]
    rfl
  have hcredits (q : List TxFrame) (b : BuildId) : State.credits { u with txQueue := q } b = s.credits b := by
    rw [hu]; cases b <;> rfl
  have hstation : u.station ≠ .silent := by simp [hu]
  have hlength : u.txQueue.length ≤ 6 := by rw [hu]; simp; omega
  have hcreditsA : u.credits .A = a.creditsA := by rw [← hA, hu]; rfl
  rw [hstart, reportReady_room hstation (by simp only [txCapacity]; omega), hcreditsA,
    reportReady_room (by exact hstation) (by
      simp only [List.length_append, txCapacity]
      split_ifs <;> simp <;> omega), hcredits, hB, hu]
  rfl

end Sys2Proof.Machine

open Sys2Proof Sys2Proof.Machine

/-- Settles O41. -/
theorem lineClearResetsTheWork : Obligations.LineClearResetsTheWork := by
  intro s f rest h hc hp hfree
  obtain ⟨-, -, -, hs⟩ := id h
  have hrun := clear_taken h
  rw [if_neg hc, if_pos hp, lineClear_eq (by exact hs) (by exact hc) (by exact hfree)] at hrun
  refine ⟨_, congrArg done hrun, ?_, fun b => ?_, rfl, rfl⟩
  · show ∀ n ∈ Counters.zero.toList, n = 0
    decide
  · have hcleared (x : Build) : x.cleared = { x with
        state := if x.state = .unused then .unused
          else if x.state = .swapping ∨ (x.state ≠ .empty ∧ ∃ i : Fin 24, x.built.height[i] ≠ 0) then .held
          else .empty
        order := none, lines := [], nextLine := 0, ending := .noEnding, planned := x.built, plan := []
        scanDue := none, holdOrigin := .noOrigin, swapDue := false } := by
      rw [← clearedState_eq]
      rfl
    rw [← hcleared]
    cases b <;> rfl

/-- Settles O43: the three frames alike, by what each takes and checks. -/
theorem setupFramesAreTakenOrRefused : Obligations.SetupFramesAreTakenOrRefused := by
  refine ⟨fun s f rest code cmd hcmd hrx hcode hignored => ?_,
    fun s f rest p code cmd ok v w z l a c hp hv hw hz hcmd hrx hcode hhere hlen => ?_⟩
  · exact ⟨_, setup_ignored hcmd hrx hcode hignored, rfl⟩
  · have hv' : v = lineSetupOf f.payload := by rw [hv, hp]; rfl
    have hw' : w = setup1Of f.payload := by rw [hw, hp]; rfl
    have hz' : z = setup2Of f.payload := by rw [hz, hp]; rfl
    have htaken : SetupTaken cmd code ok l a c rest s := by
      rcases hcmd with ⟨rfl, rfl, rfl, rfl, rfl, hok⟩ | ⟨rfl, rfl, rfl, rfl, rfl, hok⟩ | ⟨rfl, rfl, rfl, rfl, rfl, hok⟩
      · rw [propext (hok.trans (lineSetupOk_iff v s.setup1).symm), hv']
        exact lineSetup_taken hrx hcode
      · rw [propext (hok.trans (setup1Ok_iff w s.lineSetup).symm), hw']
        exact stationSetup1_taken hrx hcode (hhere.resolve_left (by decide))
      · rw [hz']
        exact stationSetup2_taken hrx hcode (hhere.resolve_left (by decide)) hok
    obtain ⟨passes, take, hpasses, htake, hrun⟩ := htaken.runs
    have hanswer (u : State) (r : ReplyCode) (hs : u.station ≠ .silent) (hq : u.txQueue = s.txQueue) :
        answerSetup code r u = { u with
          txQueue := s.txQueue ++ [TxFrame.fresh (.reply 5 (BitVec.ofNat 8 code) none r 0)] } := by
      rw [answerSetup, offer_room _ hs (by rw [hq]; exact hlen), hq]
    refine ⟨fun hst hok hmissing => ⟨_, hrun, ?_⟩, fun hst hnot => ⟨_, hrun, ?_⟩, fun hst => ⟨_, hrun, ?_⟩⟩
    · have hset : onSetup code passes take { s with rxBuffer := rest } = { s with
          rxBuffer := rest, lineSetup := l, setup1 := a, setup2 := c
          txQueue := s.txQueue ++ [TxFrame.fresh (.reply 5 (BitVec.ofNat 8 code) none .accepted 0)] } := by
        rw [onSetup_accepts (by exact hst) (hpasses.mpr hok), htake, hanswer _ _ (by simp [hst]) (by rfl)]
        exact readyIfComplete_missing hmissing
      exact showBeacons_of_eq hset
    · have hfails : passes = false := by rw [← Bool.not_eq_true, hpasses]; exact hnot
      have hset : onSetup code passes take { s with rxBuffer := rest } = answerSetup code .data { s with rxBuffer := rest } := by
        simp [onSetup, hst, hfails]
      exact showBeacons_of_eq (hset.trans (hanswer _ _ (by simp [hst]) rfl))
    · have hset : onSetup code passes take { s with rxBuffer := rest } =
          answerSetup code .locked { s with rxBuffer := rest } := by
        rcases hst with h | h | h <;> simp [onSetup, h]
      exact showBeacons_of_eq (hset.trans (hanswer _ _ (by rcases hst with h | h | h <;> simp [h]) rfl))

/-- Settles O44: each of the three frames completes the setup that it is the last of. -/
theorem thirdSetupFrameReachesReady : Obligations.ThirdSetupFrameReachesReady := by
  intro s f rest code cmd l a c hcmd hrx hcode hhere hst hlen hbuildA hbuildB
  have htaken : SetupTaken cmd code True (some l) (some a) (some c) rest s := by
    rcases hcmd with ⟨rfl, rfl, hl, h1, h2, h3, h4, ha, hc⟩ | ⟨rfl, rfl, ha, h1, h2, h3, h4, h5, h6, h7, h8, hl, hc⟩ |
      ⟨rfl, rfl, hc, hl, ha⟩
    · have hl' : l = lineSetupOf f.payload := hl
      have hok := (lineSetupOk_iff l s.setup1).mpr ⟨h1, h2, h3, h4⟩
      have htaken := lineSetup_taken hrx hcode
      rw [← hl', hok, ha, hc] at htaken
      simpa using htaken
    · have ha' : a = setup1Of f.payload := ha
      have hok := (setup1Ok_iff a s.lineSetup).mpr ⟨h1, h2, h3, h4, h5, h6, h7, h8⟩
      have htaken := stationSetup1_taken hrx hcode (hhere.resolve_left (by decide))
      rw [← ha', hok, hl, hc] at htaken
      simpa using htaken
    · have hc' : c = setup2Of f.payload := hc
      have htaken := stationSetup2_taken hrx hcode (hhere.resolve_left (by decide)) trivial
      rw [← hc', hl, ha] at htaken
      exact htaken
  obtain ⟨passes, take, hpasses, htake, hrun⟩ := htaken.runs
  have hset : onSetup code passes take { s with rxBuffer := rest } = { s with
      rxBuffer := rest, lineSetup := some l, setup1 := some a, setup2 := some c
      station := .run, streak := 0, cycles := 0
      buildA := s.buildA.atReady a.creditsA, buildB := s.buildB.atReady a.creditsB
      txQueue := s.txQueue ++ [TxFrame.fresh (.reply 5 (BitVec.ofNat 8 code) none .accepted 0)] ++
        [TxFrame.fresh (.ready a.creditsA a.creditsB)] ++
        (if a.creditsA = 0 then [] else [TxFrame.fresh (.buildReport (reportOf .A (s.buildA.atReady a.creditsA)))]) ++
        (if a.creditsB = 0 then []
          else [TxFrame.fresh (.buildReport (reportOf .B (s.buildB.atReady a.creditsB)))]) } := by
    rw [onSetup_accepts (by exact hst) (hpasses.mpr trivial), htake, answerSetup, offer_room _ (by simp [hst]) (by simp only [txCapacity]; omega)]
    refine (readyIfComplete_complete (l := l) (a := a) (c := c) rfl rfl rfl (by simp [hst]) ?_).trans rfl
    simp only [List.length_append, List.length_cons, List.length_nil]
    omega
  refine ⟨_, hrun.trans (congrArg done hset), rfl, rfl, rfl, rfl, rfl, rfl, ?_, ?_, ?_, rfl⟩
  · rw [← atReady_powerOn, ← hbuildA]
    rfl
  · rw [← atReady_powerOn, ← hbuildB]
    rfl
  · simp only [showBeacons_txQueue, List.append_assoc, List.cons_append, List.nil_append]
    rfl
end

section
/-!
Operations that end or expire: the swap (O53, O55), the pause (O56), a PLACE below the quick limit (O54), and a scan with
the entry to HELD that follows (O55).
-/
namespace Sys2Proof.Machine

variable {b : BuildId} {s t u w : State}

/-! ### Expiries (R108, R114; log entry 5) -/

/-- At the expiry of a timer the limit has passed since its start. -/
theorem runTo_elapsed (start : Millis) {limit : Nat} (h : limit < 2 ^ 32) (s : State) :
    limit ≤ ((runTo start limit s).timeBase - start).toNat := by
  rw [runTo]
  dsimp only
  split_ifs with he
  · simpa [elapsed] using he
  · have hadd : start + BitVec.ofNat 32 limit - start = BitVec.ofNat 32 limit := by
      rw [BitVec.add_comm, BitVec.add_sub_cancel]
    rw [hadd, BitVec.toNat_ofNat, Nat.mod_eq_of_lt h]

/-- One build is changed, and nothing else. -/
theorem updateBuild_spec (b : BuildId) (g : Build → Build) (v : State) :
    ∃ u, u = updateBuild b g v ∧ u.build b = g (v.build b) ∧ (∀ c, c ≠ b → u.build c = v.build c) ∧
      u = { v with buildA := u.buildA, buildB := u.buildB } :=
  ⟨_, rfl, updateBuild_build_same v b g, fun c hc => updateBuild_build_other v b c g hc, updateBuild_eq b g v⟩

/-- Two changes of a build are one. -/
theorem updateBuild_updateBuild (b : BuildId) (f g : Build → Build) (s : State) :
    updateBuild b f (updateBuild b g s) = updateBuild b (fun x => f (g x)) s := by
  cases b <;> rfl

/-- A change of a build and the record of a fault do not touch the same parts. -/
theorem updateBuild_recordFault (g : Build → Build) (c : FaultCause) (v : Severity) (d : Option BuildId)
    (tag : Option Tag) : updateBuild b g (recordFault c v d tag s) = recordFault c v d tag (updateBuild b g s) := by
  cases b <;> rfl

/-- A recorded fault writes the fault record alone. -/
theorem recordFault_eq (c : FaultCause) (v : Severity) (d : Option BuildId) (tag : Option Tag) (s : State) :
    recordFault c v d tag s = { s with fault := (recordFault c v d tag s).fault } := rfl

/-! ### The streak below the limit (R124, R126) -/

/-- A failure below the quick limit only adds one to F (R124, R126). -/
theorem streakFailure_below (d : BuildId) (tag : Option Tag)
    (h : s.streak + 1 < (if s.cycles = 0 then s.own2.q1 else s.own2.q2)) (h15 : s.streak < 15) :
    streakFailure d tag s = { s with streak := s.streak + 1 } := by
  have hmin : min (s.streak + 1) 15 = s.streak + 1 := Nat.min_eq_left h15
  rw [streakFailure]
  simp only [hmin]
  refine if_neg fun hlimit => ?_
  have heq : s.streak + 1 = if s.cycles = 0 then s.own2.q1 else s.own2.q2 := hlimit.2
  omega

/-! ### Uncertain entries (R85, R119, R134) -/

/-- The entry of a PLACE in flight is the first with its tag that is PLACING (R108, R112). -/
theorem flightEntry_eq {g : InFlight} {tag : Tag} {e : PlanEntry} (htag : g.tag = some tag)
    (he : findEntry g.build tag s = some e) (hst : e.state = .placing) : flightEntry g s = some e := by
  obtain ⟨older, newer, hplan, het, hold⟩ := (findEntry_iff g.build tag e).mp he
  simp only [flightEntry, htag]
  rw [hplan, List.find?_append, List.find?_eq_none.mpr (by
    intro q hq
    simp [hold q hq]), Option.none_or, List.find?_cons_of_pos (by simp [het, hst])]

/-- A build whose entry becomes uncertain (R85, R134). -/
def Build.unsure (tag : Tag) (h : Hypotheses) (x : Build) : Build :=
  { x with
    plan := x.plan.map (fun e => if e.tag = tag then { e with uncertain := some h } else e)
    scanDue := mergeDue x.scanDue .uncertain }

/-- With no ending RELEASE the entry becomes uncertain and an uncertain scan falls due (R134). -/
theorem becomeUncertain_eq (e : PlanEntry) (h : Hypotheses) (hend : (s.build b).ending ≠ .release) :
    becomeUncertain b e h s = updateBuild b (Build.unsure e.tag h) s := by
  rw [becomeUncertain, if_neg hend, markUncertain, updateBuild_updateBuild]
  congr 1
  funext x
  simp only [Build.makeScanDue, Build.unsure, beq_iff_eq]

/-! ### Entry to HELD (R53, R136, R141) -/

/-- What the entry of a build to HELD does: the CONTESTED and WON entries are withdrawn, the origin is set, a due step or
final scan is dropped, and a BUILD REPORT is offered (R53). -/
structure EntersHeld (b : BuildId) (origin : HoldOrigin) (s t : State) : Prop where
  same : t.build b = { (s.build b).hold origin with
    planned := (t.build b).planned, plan := (t.build b).plan, lines := (t.build b).lines }
  plan : ∀ e ∈ (t.build b).plan, e ∈ (s.build b).plan ∧ e.state = .placing
  stays : ((s.build b).plan.map PlanEntry.tag).Nodup → ∀ e ∈ (s.build b).plan, e.state = .placing → e ∈ (t.build b).plan
  other : ∀ c, c ≠ b → t.build c = s.build c
  frame : t = { s with
    txQueue := t.txQueue, positions := t.positions, track := t.track, throttled := t.throttled, sweep := t.sweep,
    pendingSweep := t.pendingSweep, buildA := t.buildA, buildB := t.buildB, pick := t.pick, counters := t.counters }

theorem enterHeld_enters (origin : HoldOrigin) (h : (s.build b).state ≠ .held) :
    EntersHeld b origin s (enterHeld b origin s) := by
  obtain ⟨v, hv, hvb, hvo, hveq⟩ := updateBuild_spec b (Build.hold origin) s
  have hrun : enterHeld b origin s = reportBuild b (withdrawBatch b .withdrawn v) := by rw [enterHeld, if_neg h, hv]
  have hw := withdrawBatch_removes (b := b) (s := v) .withdrawn
  obtain ⟨w, hwdef⟩ : ∃ w, w = withdrawBatch b .withdrawn v := ⟨_, rfl⟩
  rw [← hwdef] at hw hrun
  have hplan : (v.build b).plan = (s.build b).plan := by rw [hvb]; rfl
  have hbuild (c : BuildId) : (enterHeld b origin s).build c = w.build c := by rw [hrun, reportBuild, offer_build]
  refine ⟨?_, fun e he => ?_, fun hnodup e he hst => ?_, fun c hc => ?_, ?_⟩
  · rw [hbuild, ← hvb]
    exact hw.withdraws.same
  · rw [hbuild] at he
    refine ⟨hplan ▸ ((hw.mem_plan e).mp he).1, ?_⟩
    exact Removes.placing_left (m := .withdrawn) (l := []) (by simpa using hw) e he
  · rw [hbuild, hw.mem_plan, hplan]
    refine ⟨he, fun r hr htag => ?_⟩
    obtain ⟨e', he', rfl⟩ := List.mem_map.mp hr
    obtain ⟨hmem, hne⟩ := (mem_movable _ _).mp he'
    rw [hplan] at hmem
    exact hne (eq_of_tag_eq hnodup he hmem htag ▸ hst)
  · rw [hbuild, hw.withdraws.other c hc, hvo c hc]
  · rw [hrun, reportBuild, hw.withdraws.eq, hveq]
    rfl

/-! ### Scans that expire (R143) -/

/-- No sweep follows the end of a scan where the build is not in OPEN before and after it (R20; log entry 27). -/
theorem sweepIfStillOpen_not {before : BuildState} (h : before ≠ .opened ∨ (s.build b).state ≠ .opened) :
    sweepIfStillOpen b before s = s := by
  rw [sweepIfStillOpen, if_neg]
  rintro ⟨h1, h2⟩
  rcases h with h | h
  · exact h h1
  · exact h h2

/-- The end of a scan at its expiry, before the build moves: the port is free, the scan is in flight no more and the fault
is recorded (R114, R143). -/
def scanFaulted (g : InFlight) (s : State) : State :=
  recordFault .scanTimeout .attn (some g.build) ((uncertainEntry (s.build g.build)).map PlanEntry.tag)
    (endScanFlight g.build (expireFlight g s))

theorem scanFaulted_build (g : InFlight) (s : State) :
    (scanFaulted g s).build g.build = { s.build g.build with scanInFlight := none } ∧
      ∀ c, c ≠ g.build → (scanFaulted g s).build c = s.build c := by
  refine ⟨?_, fun c hc => ?_⟩
  · rw [scanFaulted, recordFault_build, endScanFlight, updateBuild_build_same]
    simp only [expireFlight, freePort_build, runTo_build]
  · rw [scanFaulted, recordFault_build, endScanFlight, updateBuild_build_other _ _ _ _ hc]
    simp only [expireFlight, freePort_build, runTo_build]

theorem scanFaulted_eq (g : InFlight) (s : State) : scanFaulted g s = { s with
    inFlight := none, timeBase := (scanFaulted g s).timeBase, fault := (scanFaulted g s).fault
    buildA := (scanFaulted g s).buildA, buildB := (scanFaulted g s).buildB } := by
  rw [scanFaulted, endScanFlight, updateBuild_eq]
  rfl

theorem scanFaulted_fault {g : InFlight} (h : s.fault.valid = false) :
    (scanFaulted g s).fault = ⟨true, false, .attn, some .scanTimeout, some g.build,
      (uncertainEntry (s.build g.build)).map PlanEntry.tag, s.belt, (scanFaulted g s).timeBase⟩ := by
  obtain ⟨u, hu, -, -, hueq⟩ := updateBuild_spec g.build (fun x => { x with scanInFlight := none }) (expireFlight g s)
  rw [scanFaulted, endScanFlight, ← hu, recordFault_clear _ _ _ _ (by rw [hueq]; exact h), hueq]
  rfl

/-- SCAN_TIMEOUT of a scan without marks: an OPEN or CLOSING build enters HELD, any other stays as it is (R143). -/
theorem scanTimeout_expired {g : InFlight} {fl : ScanFlight} (hg : s.inFlight = some g) (hk : g.kind = .scan)
    (hdiscard : g.discard = false) (hfl : (s.build g.build).scanInFlight = some fl) (hrelease : fl.release = false) :
    scanTimeout s = runArbiter (sweepIfStillOpen g.build (s.build g.build).state
      (if (s.build g.build).state = .opened then enterHeld g.build .noOrigin (scanFaulted g s)
      else if (s.build g.build).state = .closing then enterHeld g.build .closing (scanFaulted g s)
      else scanFaulted g s)) := by
  have hflight : flightOf .scan s = some g := hk ▸ flightOf_some hg
  have hbuild : (endScanFlight g.build (expireFlight g s)).build g.build = { s.build g.build with scanInFlight := none } := by
    rw [endScanFlight, updateBuild_build_same]
    simp only [expireFlight, freePort_build, runTo_build]
  have huncertain : uncertainEntry ((endScanFlight g.build (expireFlight g s)).build g.build) =
      uncertainEntry (s.build g.build) := by rw [hbuild]; rfl
  have hstate : ((endScanFlight g.build (expireFlight g s)).build g.build).state = (s.build g.build).state := by
    rw [hbuild]
  simp only [scanTimeout, hflight, hdiscard, Bool.false_eq_true, if_false, hfl, scanExpired, hrelease, huncertain, hstate]
  congr 2
  cases (s.build g.build).state <;> rfl

end Sys2Proof.Machine

open Sys2Proof Sys2Proof.Machine

/-- Settles O53. -/
theorem swapDoneEmptiesTheBuild : Obligations.SwapDoneEmptiesTheBuild := by
  rintro s seq p check g hpass hg hk rfl hdiscard hrobot hs hlen
  obtain ⟨v, hv⟩ : ∃ v : State, v = { s with inFlight := none, receiver := .idle } := ⟨_, rfl⟩
  obtain ⟨u, hu, hub, huo, hueq⟩ := updateBuild_spec g.build (fun x => Build.exchanged { x with swapInFlight := false }) v
  have hrun : swapDone g.seq p check s = { u with
      txQueue := s.txQueue ++ [TxFrame.fresh (.buildReport (reportOf g.build (u.build g.build)))] } := by
    have hswap : takeSwapDone g (receiverIdle s) = runArbiter (reportBuild g.build u) := by
      rw [hu, hv, ← updateBuild_updateBuild]
      simp only [takeSwapDone, hdiscard, Bool.false_eq_true, if_false]
      rfl
    rw [swapDone_matched hg hk hpass, hswap, reportBuild_room (by rw [hueq, hv]; exact hs) (by rw [hueq, hv]; exact hlen),
      runArbiter_robot (by rw [hueq, hv]; exact hrobot), hueq, hv]
  have hvb (c : BuildId) : v.build c = s.build c := by rw [hv]; exact build_congr rfl rfl c
  have hbuilds (c : BuildId) (q : List TxFrame) : (showBeacons { u with txQueue := q }).build c = u.build c := by
    rw [showBeacons_build, build_queue]
  refine ⟨_, congrArg done hrun, ?_, fun c hc => ?_, ?_⟩
  · rw [hbuilds, hub, hvb]
    rfl
  · rw [hbuilds, huo c hc, hvb]
  · rw [hbuilds, hueq, hv]
    rfl

/-- Settles O56. -/
theorem pauseEndsAtItsTimer : Obligations.PauseEndsAtItsTimer := by
  intro s start hst htimer hheld hlength
  have hrun : pauseTimerExpiry s =
      triggerSweep { runTo start (pauseMs s) s with station := .run, streak := 0, pauseTimer := none } := by
    simp only [pauseTimerExpiry, htimer, hst, if_true]
    exact runArbiter_held hheld
  refine ⟨_, congrArg done hrun, ?_, rfl, rfl⟩
  exact runTo_elapsed start (by omega) s

/-- Settles O54: the entry becomes uncertain, the fault is recorded, and the streak stays below its limit. -/
theorem placeExpiryLeavesTheCaseUncertain : Obligations.PlaceExpiryLeavesTheCaseUncertain := by
  intro s g tag e hg hk hdiscard htag he hst hend hdue hrobot hstation hlimit h15 hms hvalid
  obtain ⟨v, hv⟩ : ∃ v, v = expireFlight g s := ⟨_, rfl⟩
  have hveq : v = { s with inFlight := none, timeBase := v.timeBase } := by rw [hv]; rfl
  have hvb (c : BuildId) : v.build c = s.build c := by rw [hveq]; exact build_congr rfl rfl c
  have het : e.tag = tag := findEntry_tag he
  have hentry : flightEntry g v = some e := flightEntry_eq htag (by rw [findEntry_congr (hvb _)]; exact he) hst
  obtain ⟨u, hu, hub, huo, hueq⟩ := updateBuild_spec g.build (Build.unsure tag .placedOrNot) v
  obtain ⟨r, hr⟩ : ∃ r, r = (recordFault .placeTimeout .attn (some g.build) (some tag) u).fault := ⟨_, rfl⟩
  have hfault : r = ⟨true, false, .attn, some .placeTimeout, some g.build, some tag, s.belt, v.timeBase⟩ := by
    rw [hr, recordFault_clear _ _ _ _ (by rw [hueq, hveq]; exact hvalid), hueq, hveq]
  have hrun : placeExpiry s = { u with streak := s.streak + 1, fault := r } := by
    have hflight : flightOf .place s = some g := hk ▸ flightOf_some hg
    have hexpired : placeExpired g.build e v = { u with streak := s.streak + 1, fault := r } := by
      rw [placeExpired, becomeUncertain_eq e _ (by rw [hvb, hend]; decide), het, ← hu, recordFault_eq, ← hr,
        streakFailure_below _ _ (by rw [hueq, hveq]; exact hlimit) (by rw [hueq, hveq]; exact h15), hueq, hveq]
    simp only [placeExpiry, hflight, hdiscard, Bool.false_eq_true, if_false, ← hv, hentry, hexpired]
    exact runArbiter_robot (by rw [hueq, hveq]; exact hrobot)
  have hbuilds (c : BuildId) :
      (showBeacons { u with streak := s.streak + 1, fault := r }).build c = u.build c := by
    rw [showBeacons_build]
    exact build_congr rfl rfl c
  refine ⟨_, congrArg done hrun, ?_, ?_, ?_, fun c hc => ?_, ?_⟩
  · have hlim := runTo_elapsed g.startedAt hms s
    rw [hueq, hv]
    exact hlim
  · rw [hueq]
    exact hfault
  · rw [hbuilds, hub, hvb, Build.unsure, hdue]
    rfl
  · rw [hbuilds, huo c hc, hvb]
  · rw [hueq, hveq]
    rfl

/-- Settles O55: an entry to HELD for a scan of a build in OPEN or CLOSING, the fault alone for one elsewhere, and HELD
without an order after a swap. -/
theorem scanAndSwapExpiriesHoldTheBuild : Obligations.ScanAndSwapExpiriesHoldTheBuild := by
  intro s g hg hdiscard hrobot hvalid
  obtain ⟨hbuild, hother⟩ := scanFaulted_build g s
  have hfault := scanFaulted_fault (g := g) hvalid
  have hkept := scanFaulted_eq g s
  obtain ⟨q, hq⟩ : ∃ q, q = scanFaulted g s := ⟨_, rfl⟩
  rw [← hq] at hbuild hother hfault hkept
  refine ⟨fun hk fl hfl hrelease hst => ?_, fun hk fl hfl hrelease hst => ?_, fun hk => ?_⟩
  · obtain ⟨origin, horigin, hrun⟩ : ∃ origin, (origin = HoldOrigin.closing ↔ (s.build g.build).state = .closing) ∧
        scanTimeout s = runArbiter (sweepIfStillOpen g.build (s.build g.build).state (enterHeld g.build origin q)) := by
      have hrun := scanTimeout_expired hg hk hdiscard hfl hrelease
      rw [← hq] at hrun
      rcases hst with h | h
      · exact ⟨.noOrigin, by simp [h], by rw [hrun, if_pos h]⟩
      · exact ⟨.closing, by simp [h], by rw [hrun, if_neg (by simp [h]), if_pos h]⟩
    have hqstate : (q.build g.build).state = (s.build g.build).state := by rw [hbuild]
    have hheld := enterHeld_enters (s := q) (b := g.build) origin (by rw [hqstate]; rcases hst with h | h <;> simp [h])
    obtain ⟨t, ht⟩ : ∃ t, t = enterHeld g.build origin q := ⟨_, rfl⟩
    rw [← ht] at hheld hrun
    have hsame := hheld.same
    rw [hbuild] at hsame
    have hstate : (t.build g.build).state = .held := by rw [hsame]; rfl
    rw [sweepIfStillOpen_not (.inr (by simp [hstate])),
      runArbiter_robot (by rw [hheld.frame, hkept]; exact hrobot)] at hrun
    refine ⟨_, congrArg done hrun, ?_⟩
    simp only [showBeacons_build]
    refine ⟨hstate, by rw [hsame]; rfl, ?_, fun e he => (hheld.plan e he).2, by rw [hsame]; rfl, ?_, fun c hc => ?_, ?_⟩
    · rw [hsame]
      exact horigin
    · rw [hheld.frame]
      exact hfault
    · rw [hheld.other c hc, hother c hc]
    · rw [hheld.frame, hkept]
      rfl
  · have hrun := scanTimeout_expired hg hk hdiscard hfl hrelease
    have hno : (s.build g.build).state ≠ .opened := by rcases hst with h | h | h | h <;> simp [h]
    have hnc : (s.build g.build).state ≠ .closing := by rcases hst with h | h | h | h <;> simp [h]
    rw [if_neg hno, if_neg hnc, ← hq, sweepIfStillOpen_not (.inl hno),
      runArbiter_robot (by rw [hkept]; exact hrobot)] at hrun
    refine ⟨_, congrArg done hrun, ?_, fun c hc => ?_, hfault, ?_⟩
    · rw [showBeacons_build, hbuild]
    · rw [showBeacons_build, hother c hc]
    · rw [hkept]
      rfl
  · obtain ⟨v, hv⟩ : ∃ v, v = expireFlight g s := ⟨_, rfl⟩
    have hveq : v = { s with inFlight := none, timeBase := v.timeBase } := by rw [hv]; rfl
    have hvb (c : BuildId) : v.build c = s.build c := by rw [hveq]; exact build_congr rfl rfl c
    obtain ⟨u, hu, hub, huo, hueq⟩ := updateBuild_spec g.build (fun x => Build.swapExpired { x with swapInFlight := false }) v
    obtain ⟨r, hr⟩ : ∃ r, r = (recordFault .swapTimeout .attn (some g.build) none u).fault := ⟨_, rfl⟩
    have hfault : r = ⟨true, false, .attn, some .swapTimeout, some g.build, none, s.belt, v.timeBase⟩ := by
      rw [hr, recordFault_clear _ _ _ _ (by rw [hueq, hveq]; exact hvalid), hueq, hveq]
    obtain ⟨t, ht⟩ : ∃ t, t = reportBuild g.build { u with fault := r } := ⟨_, rfl⟩
    have hrun : swapTimeout s = t := by
      have hflight : flightOf .swap s = some g := hk ▸ flightOf_some hg
      have hmoved : updateBuild g.build Build.swapExpired (recordFault .swapTimeout .attn (some g.build) none
          (endSwapFlight g.build v)) = { u with fault := r } := by
        rw [updateBuild_recordFault, endSwapFlight, updateBuild_updateBuild, ← hu, recordFault_eq, ← hr]
      simp only [swapTimeout, hflight, hdiscard, Bool.false_eq_true, if_false, ← hv, hmoved, ← ht]
      exact runArbiter_robot (by rw [ht, hueq, hveq]; exact hrobot)
    have hbuilds (c : BuildId) : (showBeacons t).build c = u.build c := by
      rw [showBeacons_build, ht, reportBuild, offer_build]
      exact build_congr rfl rfl c
    refine ⟨_, congrArg done hrun, ?_⟩
    simp only [hbuilds, hub, hvb]
    refine ⟨rfl, rfl, rfl, rfl, rfl, rfl, rfl, rfl, ?_, fun c hc => by rw [huo c hc, hvb], ?_⟩
    · rw [ht, hueq]
      exact hfault
    · rw [ht, hueq, hveq]
      rfl
end

section
/-!
The end of a transmission (R24, R25, R27): the frame that leaves the line, and the record whose claim it was (O33).
-/
namespace Sys2Proof.Machine

variable {s t : State} {f : TxFrame} {tag : Tag} {before after : List TxFrame}

/-! ### Claims (R23, R25) -/

/-- A CLAIM is a frame that carries a claim. -/
theorem isClaim_iff (f : TxFrame) : f.isClaim = true ↔ ∃ tag score b, f.body = .claim tag score b := by
  unfold TxFrame.isClaim
  split
  · rename_i h
    simp [h]
  · rename_i h
    simp only [Bool.false_eq_true, false_iff]
    rintro ⟨tag, score, b, hb⟩
    exact h tag score b hb

/-- A record's own claim is the linked CLAIM with its tag (log entry 16). -/
theorem isOwnClaim_iff (f : TxFrame) (tag : Tag) :
    f.isOwnClaim tag = true ↔ f.linked = true ∧ ∃ score b, f.body = .claim tag score b := by
  unfold TxFrame.isOwnClaim
  split
  · rename_i t score b h
    simp only [h, Bool.and_eq_true, beq_iff_eq, TxBody.claim.injEq]
    grind
  · rename_i h
    simp only [Bool.false_eq_true, false_iff]
    rintro ⟨-, score, b, hb⟩
    exact h tag score b hb

/-- The claim of a record is in transmission when an own claim of its tag is. -/
theorem claimInTransmission_iff (tag : Tag) (s : State) : claimInTransmission tag s = true ↔
    ∃ f ∈ s.txQueue, f.isOwnClaim tag = true ∧ f.inTransmission = true := by
  simp [claimInTransmission]

/-- The tag that a frame is the own claim of (R25). -/
theorem claimTag_iff (f : TxFrame) (tag : Tag) : f.claimTag = some tag ↔ f.isOwnClaim tag = true := by
  rw [isOwnClaim_iff]
  unfold TxFrame.claimTag
  split
  · rename_i t score b h
    simp only [h, TxBody.claim.injEq, Option.ite_none_right_eq_some, Option.some.injEq]
    grind
  · rename_i h
    simp only [reduceCtorEq, false_iff]
    rintro ⟨-, score, b, hb⟩
    exact h tag score b hb

/-! ### The frame on the line (R24) -/

/-- The frame in transmission is found where it stands. -/
theorem onLine_found (hq : s.txQueue = before ++ f :: after) (hf : f.inTransmission = true)
    (hothers : ∀ g ∈ before ++ after, g.inTransmission = false) : onLine s = some f := by
  rw [onLine, hq, List.find?_append, List.find?_eq_none.mpr fun g hg => by
    simp [hothers g (List.mem_append_left _ hg)], Option.none_or, List.find?_cons_of_pos hf]

/-- The frame in transmission alone leaves the queue. -/
theorem dropOnLine_eq (hq : s.txQueue = before ++ f :: after) (hf : f.inTransmission = true)
    (hothers : ∀ g ∈ before ++ after, g.inTransmission = false) :
    dropOnLine s = { s with txQueue := before ++ after, ctx := none } := by
  have hkept (l : List TxFrame) (hl : ∀ g ∈ l, g.inTransmission = false) :
      l.filter (fun g => !g.inTransmission) = l :=
    List.filter_eq_self.mpr fun g hg => by simp [hl g hg]
  rw [dropOnLine, hq, List.filter_append, List.filter_cons_of_neg (by simp [hf]),
    hkept before fun g hg => hothers g (List.mem_append_left _ hg),
    hkept after fun g hg => hothers g (List.mem_append_right _ hg)]

/-- The frame in transmission returns to its place (R24). -/
theorem returnToQueue_eq (hq : s.txQueue = before ++ f :: after)
    (hothers : ∀ g ∈ before ++ after, g.inTransmission = false) :
    returnToQueue s = { s with txQueue := before ++ { f with inTransmission := false } :: after, ctx := none } := by
  have hkept (l : List TxFrame) (hl : ∀ g ∈ l, g.inTransmission = false) :
      l.map (fun g => { g with inTransmission := false }) = l := by
    refine (List.map_congr_left fun g hg => ?_).trans (List.map_id l)
    rw [← hl g hg]
    rfl
  rw [returnToQueue, hq, List.map_append, List.map_cons, hkept before fun g hg => hothers g (List.mem_append_left _ hg),
    hkept after fun g hg => hothers g (List.mem_append_right _ hg)]

/-! ### The record of a failed claim (R27, R29, R30) -/

/-- The record of a removed claim that is not QUEUED moves alone, an UNBACKED one to UNBID (R30). -/
theorem claimFailed_unqueued {r : TrackRecord} (h : findRecord tag s = some r) (hst : r.state ≠ .queued) :
    claimFailed tag s = if r.state = .unbacked then updateRecord tag TrackRecord.toUnbid s else s := by
  simp only [claimFailed, h]
  cases hs : r.state with
  | queued => exact absurd hs hst
  | unbid => rfl
  | sent => rfl
  | unbacked => rfl
  | lost => rfl

/-- A QUEUED record of a removed claim returns to UNBID and loses its entry (R27, R29). -/
theorem claimFailed_queued {r : TrackRecord} (h : findRecord tag s = some r) (hst : r.state = .queued) :
    claimFailed tag s = removeBidEntry r (updateRecord tag TrackRecord.toUnbid s) := by
  simp only [claimFailed, h, hst]

/-- What a removed claim leaves outside the plan lists and the claim unit. -/
theorem claimFailed_eq {r : TrackRecord} (h : findRecord tag s = some r) : claimFailed tag s = { s with
    txQueue := (claimFailed tag s).txQueue, positions := (claimFailed tag s).positions,
    track := (claimFailed tag s).track, throttled := (claimFailed tag s).throttled,
    sweep := (claimFailed tag s).sweep, pendingSweep := (claimFailed tag s).pendingSweep,
    buildA := (claimFailed tag s).buildA, buildB := (claimFailed tag s).buildB, pick := (claimFailed tag s).pick,
    counters := (claimFailed tag s).counters } := by
  by_cases hst : r.state = .queued
  · rw [claimFailed_queued h hst]
    obtain ⟨b, hw⟩ := removeBidEntry_some_withdraws r (updateRecord tag TrackRecord.toUnbid s)
    exact hw.eq
  · rw [claimFailed_unqueued h hst]
    split <;> rfl

end Sys2Proof.Machine

open Sys2Proof Sys2Proof.Machine

/-- Settles O33: the two ends of a transmission on a queue split at the frame in transmission. -/
theorem transmissionsEnd : Obligations.TransmissionsEnd := by
  refine ⟨fun f => ⟨isClaim_iff f, isOwnClaim_iff f⟩, fun s tag => claimInTransmission_iff tag s,
    fun s before after f hq hf hothers => ⟨?_, ?_⟩⟩
  · have hline := onLine_found hq hf hothers
    have hdrop := dropOnLine_eq hq hf hothers
    cases htag : f.claimTag with
    | none =>
      have hrun : transmissionComplete s = dropOnLine s := by simp only [transmissionComplete, hline, htag]
      refine ⟨_, congrArg done (hrun.trans hdrop), rfl, rfl, fun tag r hown _ => ?_, fun _ => rfl, rfl⟩
      rw [← claimTag_iff, htag] at hown
      cases hown
    | some tag =>
      have hrun : transmissionComplete s = updateRecord tag TrackRecord.transmitted (dropOnLine s) := by
        simp only [transmissionComplete, hline, htag]
      rw [hdrop] at hrun
      refine ⟨_, congrArg done hrun, rfl, rfl, fun tag' r hown hr => ?_, fun hno => ?_, rfl⟩
      · rw [← claimTag_iff, htag, Option.some.injEq] at hown
        subst hown
        have hfound : findRecord tag { s with txQueue := before ++ after, ctx := none } = some r := hr
        have hkeeps (x : TrackRecord) : (TrackRecord.transmitted x).tag = x.tag := by
          unfold TrackRecord.transmitted
          split <;> rfl
        change findRecord tag (updateRecord tag TrackRecord.transmitted _) = _
        rw [findRecord_updateRecord _ _ hkeeps, hfound]
        rfl
      · have hown := (claimTag_iff f tag).mp htag
        rw [hno tag] at hown
        exact absurd hown Bool.false_ne_true
  · have hline := onLine_found hq hf hothers
    have hdrop := dropOnLine_eq (s := forgetOwn s) hq hf hothers
    have hreturn := returnToQueue_eq (s := forgetOwn s) hq hothers
    by_cases hretry : f.noRetry = true
    · cases htag : f.claimTag with
      | none =>
        have hrun : transmissionFailure s = dropOnLine (forgetOwn s) := by
          simp [transmissionFailure, hline, hretry, htag]
        refine ⟨_, congrArg done (hrun.trans hdrop), rfl, rfl, fun h => by simp [hretry] at h, fun _ _ => rfl,
          fun tag r _ hown => ?_⟩
        rw [← claimTag_iff, htag] at hown
        cases hown
      | some tag =>
        obtain ⟨v, hv⟩ : ∃ v, v = dropOnLine (forgetOwn s) := ⟨_, rfl⟩
        have hveq : v = { s with txQueue := before ++ after, ctx := none, ownSent := none } := by
          rw [hv, hdrop]
          rfl
        have hrun : transmissionFailure s = claimFailed tag v := by
          simp [transmissionFailure, hline, hretry, htag, hv]
        have hframe := claimFailed_frame tag v
        refine ⟨_, congrArg done hrun, ?_, ?_, fun h => by simp [hretry] at h, fun _ hno => ?_,
          fun tag' r _ hown hr => ?_⟩
        · rw [showBeacons_ctx, hframe.ctx, hveq]
        · rw [showBeacons_ownSent, hframe.ownSent, hveq]
        · have hown := (claimTag_iff f tag).mp htag
          rw [hno tag] at hown
          exact absurd hown Bool.false_ne_true
        · rw [← claimTag_iff, htag, Option.some.injEq] at hown
          subst hown
          have hrv : findRecord tag v = some r := by rw [hveq]; exact hr
          have hrtag : r.tag = tag := findRecord_tag tag r hrv
          have hfound : findRecord tag (updateRecord tag TrackRecord.toUnbid v) = some r.toUnbid := by
            rw [findRecord_updateRecord _ _ (by exact fun _ => rfl), hrv]
            rfl
          refine ⟨fun hst => ?_, fun hst o hbid e he => ?_, fun hst => ?_, ?_⟩
          · change findRecord tag (claimFailed tag v) = _
            by_cases hqueued : r.state = .queued
            · obtain ⟨b, hw⟩ := removeBidEntry_some_withdraws r (updateRecord tag TrackRecord.toUnbid v)
              rw [claimFailed_queued hrv hqueued]
              exact hw.records tag _ hfound TrackState.noConfusion TrackState.noConfusion
            · rw [claimFailed_unqueued hrv hqueued, if_pos (hst.resolve_left hqueued)]
              exact hfound
          · rw [showBeacons_build, claimFailed_queued hrv hst] at he
            exact hrtag ▸ removeBidEntry_not_planned hbid e he
          · rw [claimFailed_unqueued hrv hst]
            split <;> rw [hveq] <;> exact ⟨rfl, rfl, rfl⟩
          · refine (showBeacons_of_eq (claimFailed_eq hrv)).trans ?_
            rw [hveq]
            rfl
    · rw [Bool.not_eq_true] at hretry
      have hrun : transmissionFailure s = returnToQueue (forgetOwn s) := by
        simp [transmissionFailure, hline, hretry]
      exact ⟨_, congrArg done (hrun.trans hreturn), rfl, rfl, fun _ => rfl, fun h => by simp [hretry] at h,
        fun tag r h => by simp [hretry] at h⟩
end

section
/-!
Leaving RUN (R39): the claims not in transmission go, their entries are withdrawn as a batch, and each touched build is
recomputed. What that leaves of the lists, said once, and the entry to SILENT on a duplicate number (O30).
-/
namespace Sys2Proof.Machine

variable {b : BuildId} {s t u w : State}

/-- On the way from s to t claims and entries that are not PLACING may have gone, and nothing else: each build keeps all but
its plan list, its planned surface and its planned counts, the lists only lose members, frames other than claims stay
held, and every claim held was held before. -/
structure Lightens (s t : State) : Prop where
  frame : PlanFrame s t
  fault : t.fault = s.fault
  seen : t.throttleSeen = s.throttleSeen
  same : ∀ b, t.build b =
    { s.build b with planned := (t.build b).planned, plan := (t.build b).plan, lines := (t.build b).lines }
  plan : ∀ b, (t.build b).plan.Sublist (s.build b).plan
  pick : t.pick.Sublist s.pick
  kept : ∀ f ∈ s.txQueue, f.isClaim = false → f ∈ t.txQueue
  claims : ∀ f ∈ t.txQueue, f.isClaim = true → ∃ g ∈ s.txQueue, g.isClaim = true ∧ g.inTransmission = f.inTransmission
  free : (∀ f ∈ s.txQueue, f.inTransmission = false) → ∀ f ∈ t.txQueue, f.inTransmission = false
  placing : ∀ b, ((s.build b).plan.map PlanEntry.tag).Nodup →
    ∀ e ∈ (s.build b).plan, e.state = .placing → e ∈ (t.build b).plan

theorem Lightens.refl (s : State) : Lightens s s :=
  ⟨.refl s, rfl, rfl, fun _ => rfl, fun _ => .refl _, .refl _, fun _ h _ => h, fun f h hc => ⟨f, h, hc, rfl⟩, id,
    fun _ _ _ h _ => h⟩

/-- What a withdrawal adds to a way that lightens, when it frees the line of nothing and leaves the PLACING entries. -/
theorem Lightens.withdraws (h : Lightens s t) (k : Withdraws b t w)
    (hfree : (∀ f ∈ t.txQueue, f.inTransmission = false) → ∀ f ∈ w.txQueue, f.inTransmission = false)
    (hplacing : ((s.build b).plan.map PlanEntry.tag).Nodup → ∀ e ∈ (t.build b).plan, e.state = .placing →
      e ∈ (w.build b).plan) : Lightens s w where
  frame := h.frame.trans k.frame
  fault := k.fault.trans h.fault
  seen := k.seen.trans h.seen
  same c := by
    by_cases hc : c = b
    · subst hc
      rw [k.same, h.same]
    · rw [k.other c hc]
      exact h.same c
  plan c := by
    by_cases hc : c = b
    · subst hc
      exact k.plan.trans (h.plan c)
    · rw [k.other c hc]
      exact h.plan c
  pick := k.pick.trans h.pick
  kept f hf hc := k.kept f (h.kept f hf hc) hc
  claims f hf hc := by
    obtain ⟨g, hg, hbody, -, htrans⟩ := k.claims f hf hc
    obtain ⟨x, hx, hxc, hxt⟩ := h.claims g hg (by unfold TxFrame.isClaim at hc ⊢; rwa [← hbody])
    exact ⟨x, hx, hxc, hxt.trans htrans.symm⟩
  free hs := hfree (h.free hs)
  placing c hd e he hst := by
    by_cases hc : c = b
    · subst hc
      exact hplacing hd e (h.placing c hd e he hst) hst
    · rw [k.other c hc]
      exact h.placing c hd e he hst

/-- Records that move lighten nothing. -/
theorem Lightens.updateRecord (h : Lightens s t) (tag : Tag) (g : TrackRecord → TrackRecord) :
    Lightens s (updateRecord tag g t) where
  frame := updateRecord_frame tag g h.frame
  fault := h.fault
  seen := h.seen
  same c := by rw [updateRecord_build]; exact h.same c
  plan c := by rw [updateRecord_build]; exact h.plan c
  pick := h.pick
  kept := h.kept
  claims := h.claims
  free := h.free
  placing c := by rw [updateRecord_build]; exact h.placing c

/-! ### Recomputation (R89) -/

/-- The walk withdraws no PLACING entry (R89). -/
theorem not_placing_of_fallen (v : LineSetup) (limit : Nat) (x : Surface) {l : List PlanEntry} {e : PlanEntry}
    (h : e ∈ fallen v limit x l) : e.state ≠ .placing := by
  induction l generalizing x with
  | nil => cases h
  | cons a l ih =>
    rw [fallen] at h
    split at h
    · exact ih _ h
    · rename_i hfalls
      rcases List.mem_cons.mp h with rfl | h
      · exact fun hst => hfalls ((standsAt_iff _ _ _ _).mpr (.inl hst))
      · exact ih _ h

/-- A run of removals puts no frame in transmission. -/
theorem Removes.free {l : List Removal} (h : Removes b s l t) (hs : ∀ f ∈ s.txQueue, f.inTransmission = false) :
    ∀ f ∈ t.txQueue, f.inTransmission = false := by
  obtain ⟨F, added, hq⟩ := h.queueAfter
  rw [hq.eq]
  intro f hf
  rcases List.mem_append.mp hf with hf | hf
  · obtain ⟨g, hg, hFg⟩ := List.mem_filterMap.mp hf
    rw [hq.passes.marked g f hFg]
    exact hs g hg
  · obtain ⟨body, -, rfl⟩ := List.mem_map.mp hf
    rfl

/-- A recomputation keeps the PLACING entries of a list with distinct tags (R89). -/
theorem recompute_keeps_placing (hd : ((s.build b).plan.map PlanEntry.tag).Nodup) {e : PlanEntry}
    (he : e ∈ (s.build b).plan) (hst : e.state = .placing) : e ∈ ((recompute b s).build b).plan := by
  rw [recompute_plan hd]
  by_contra hno
  exact not_placing_of_fallen _ _ _ ((mem_fallen_iff s.line (s.build b).heightLimit (s.build b).built hd e).mpr ⟨he, hno⟩) hst

theorem recompute_free (hs : ∀ f ∈ s.txQueue, f.inTransmission = false) :
    ∀ f ∈ (recompute b s).txQueue, f.inTransmission = false := by
  obtain ⟨w, hw, -, hrun⟩ := recompute_removes b s
  rw [hrun]
  split
  · exact hw.free hs
  · exact hw.free hs

theorem Lightens.recompute (h : Lightens s t) (b : BuildId) : Lightens s (recompute b t) :=
  h.withdraws recompute_withdraws recompute_free fun hd _ he hst =>
    recompute_keeps_placing (hd.sublist ((h.plan b).map _)) he hst

/-! ### Leaving RUN (R39) -/

theorem abortAllClaims_build (c : BuildId) : (abortAllClaims s).build c = s.build c := build_congr rfl rfl c

/-- The abort of all claims keeps the other frames, and of the claims those in transmission (R27, R39). -/
theorem abortAllClaims_lightens (s : State) : Lightens s (abortAllClaims s) := by
  have hmem (f : TxFrame) (hf : f ∈ (abortAllClaims s).txQueue) :
      ∃ g ∈ s.txQueue, f.isClaim = g.isClaim ∧ f.inTransmission = g.inTransmission := by
    obtain ⟨g, hg, rfl⟩ := List.mem_map.mp hf
    refine ⟨g, (List.mem_filter.mp hg).1, ?_⟩
    split <;> exact ⟨rfl, rfl⟩
  refine ⟨abortAllClaims_frame (.refl s), rfl, rfl, fun b => by rw [abortAllClaims_build],
    fun b => by rw [abortAllClaims_build], .refl _, fun f hf hc => ?_, fun f hf hc => ?_, fun hs f hf => ?_,
    fun b _ e he _ => by rw [abortAllClaims_build]; exact he⟩
  · exact List.mem_map.mpr ⟨f, List.mem_filter.mpr ⟨hf, by simp [hc]⟩, by simp [hc]⟩
  · obtain ⟨g, hg, hgc, hgt⟩ := hmem f hf
    exact ⟨g, hg, hgc ▸ hc, hgt.symm⟩
  · obtain ⟨g, hg, -, hgt⟩ := hmem f hf
    rw [hgt, hs g hg]

theorem abortAllClaims_onLine (s : State) :
    ∀ f ∈ (abortAllClaims s).txQueue, f.isClaim = true → f.inTransmission = true := by
  intro f hf hc
  obtain ⟨g, hg, rfl⟩ := List.mem_map.mp hf
  have hg := (List.mem_filter.mp hg).2
  split at hc <;> simp_all [TxFrame.isClaim]

/-- The entries of aborted claims go, and no PLACING one with them (R39). -/
theorem Lightens.takeOutAborted (h : Lightens s t) (b : BuildId) (tags : List Tag) :
    Lightens s (takeOutAborted b tags t) := by
  have hfold (l : List PlanEntry) (hl : ∀ e ∈ l, e ∈ (s.build b).plan ∧ e.state = .contested) (v : State)
      (hv : Lightens s v) :
      Lightens s (l.foldl (fun t e => Machine.updateRecord e.tag TrackRecord.toUnbid (takeOut b e t)) v) := by
    induction l generalizing v with
    | nil => exact hv
    | cons e l ih =>
      refine ih (fun x hx => hl x (List.mem_cons_of_mem _ hx)) _ (Lightens.updateRecord ?_ _ _)
      refine hv.withdraws (takeOut_withdraws (b := b) e) (by rw [takeOut_txQueue]; exact id) fun hd x hx hst => ?_
      rw [takeOut_build]
      refine List.mem_filter.mpr ⟨hx, ?_⟩
      obtain ⟨he, hcontested⟩ := hl e List.mem_cons_self
      have hne : x.tag ≠ e.tag := fun htag => by
        rw [eq_of_tag_eq hd ((hv.plan b).subset hx) he htag, hcontested] at hst
        cases hst
      simpa using hne
  refine hfold _ (fun e he => ?_) t h
  obtain ⟨hmem, hcond⟩ := List.mem_filter.mp he
  simp only [Bool.and_eq_true, beq_iff_eq] at hcond
  exact ⟨(h.plan b).subset hmem, hcond.1⟩

theorem Lightens.recomputeIf (h : Lightens s t) (touched : Bool) (b : BuildId) : Lightens s (recomputeIf touched b t) := by
  unfold Machine.recomputeIf
  split
  · exact h.recompute b
  · exact h

/-- What is left after the abort of all claims. -/
theorem leaveRun_after (s : State) : Lightens (abortAllClaims s) (leaveRun s) :=
  ((((Lightens.refl _).takeOutAborted .A _).takeOutAborted .B _).recomputeIf _ .A).recomputeIf _ .B

theorem Lightens.trans_aborts (h : Lightens (abortAllClaims s) t) : Lightens s t := by
  have k := abortAllClaims_lightens s
  have hb (c : BuildId) : (abortAllClaims s).build c = s.build c := abortAllClaims_build c
  refine ⟨k.frame.trans h.frame, h.fault, h.seen, fun c => ?_, fun c => ?_, h.pick,
    fun f hf hc => h.kept f (k.kept f hf hc) hc, fun f hf hc => ?_, fun hs => h.free (k.free hs), fun c => ?_⟩
  · rw [← hb]; exact h.same c
  · rw [← hb]; exact h.plan c
  · obtain ⟨g, hg, hgc, hgt⟩ := h.claims f hf hc
    obtain ⟨x, hx, hxc, hxt⟩ := k.claims g hg hgc
    exact ⟨x, hx, hxc, hxt.trans hgt⟩
  · rw [← hb]; exact h.placing c

/-- The station that leaves RUN loses claims and entries that are not PLACING, and nothing else (R39). -/
theorem leaveRun_lightens (s : State) : Lightens s (leaveRun s) := (leaveRun_after s).trans_aborts

/-- The claims that stay held when the station leaves RUN are in transmission (R39). -/
theorem leaveRun_onLine (s : State) : ∀ f ∈ (leaveRun s).txQueue, f.isClaim = true → f.inTransmission = true := by
  intro f hf hc
  obtain ⟨g, hg, hgc, hgt⟩ := (leaveRun_after s).claims f hf hc
  rw [← hgt]
  exact abortAllClaims_onLine s g hg hgc

theorem Lightens.eq (h : Lightens s t) : t = { s with
    txQueue := t.txQueue, positions := t.positions, track := t.track, throttled := t.throttled, sweep := t.sweep,
    pendingSweep := t.pendingSweep, buildA := t.buildA, buildB := t.buildB, pick := t.pick,
    counters := t.counters } := by
  rw [← h.seen, ← h.fault]
  exact h.frame

theorem Lightens.built (h : Lightens s t) (b : BuildId) : (t.build b).built = (s.build b).built := by rw [h.same]

end Sys2Proof.Machine

open Sys2Proof Sys2Proof.Machine

/-- Settles O30: nothing is in transmission, so that leaving RUN and emptying the queue leave no frame. -/
theorem duplicateNumberSilencesTheStation : Obligations.DuplicateNumberSilencesTheStation := by
  intro s f own haccepted hother hs hnumber hsource hctx hline hroom
  obtain ⟨v, hv⟩ : ∃ v : State, v = { s with station := .silent, pauseTimer := none, pairing := none } := ⟨_, rfl⟩
  have hlight := leaveRun_lightens v
  obtain ⟨q, hq⟩ : ∃ q, q = leaveRun v := ⟨_, rfl⟩
  rw [← hq] at hlight
  have hfree : ∀ g ∈ q.txQueue, g.inTransmission = false := by
    refine hlight.free fun g hg => ?_
    rw [hv] at hg
    rw [LineCarriesOne, hctx] at hline
    have hnone := List.map_eq_nil_iff.mp hline.symm
    simpa using List.filter_eq_nil_iff.mp hnone g hg
  have hempty := emptyTxQueue_free hfree
  have heq := hlight.eq
  have hqfault : q.fault = s.fault := by rw [hlight.fault, hv]
  obtain ⟨r, hr⟩ : ∃ r, r = (recordFault .duplicateNumber .stop none none (emptyTxQueue q)).fault := ⟨_, rfl⟩
  have hbelt : (emptyTxQueue q).belt = s.belt := by rw [emptyTxQueue, heq, hv]
  have htime : (emptyTxQueue q).timeBase = s.timeBase := by rw [emptyTxQueue, heq, hv]
  have hfault : (emptyTxQueue q).fault = s.fault := hqfault
  have hsilent : enterSilent s = { q with txQueue := [], fault := r } := by
    rw [enterSilent, ← hv, ← hq, recordFault_eq, ← hr, ← hempty]
    rfl
  have hrun : frameReception f own s = { q with txQueue := [], fault := r, rxBuffer := s.rxBuffer ++ [f] } := by
    have hdup : isDuplicate f s = true := by
      obtain ⟨n, hn⟩ := Option.ne_none_iff_exists'.mp hnumber
      simp [isDuplicate, hs, hn, hsource]
    have hown : isOwn f own s = false := by
      rw [← Bool.not_eq_true, isOwn_iff]
      rintro ⟨h1, h2⟩
      rcases hother with h | h
      · simp [h] at h1
      · exact h h2
    rw [frameReception, if_pos haccepted, hown, if_neg Bool.false_ne_true, if_pos hdup, hsilent, bufferFrame_room]
    · rw [heq, hv]
    · rw [heq, hv]
      exact hroom
  refine ⟨_, congrArg done hrun, ?_, rfl, ?_, ?_, rfl, ?_, ?_, fun hvalid => ?_, fun hvalid hsev => ?_,
    fun hvalid hsev => ?_, ?_⟩
  · rw [heq, hv]; rfl
  · rw [heq, hv]; rfl
  · rw [heq, hv]; rfl
  · have := hlight.pick
    rw [hv] at this
    exact this
  · rw [heq, hv]; exact ⟨rfl, rfl, rfl, rfl⟩
  · rw [← hfault] at hvalid
    rw [← hbelt, ← htime, ← recordFault_clear _ _ _ _ hvalid]
    exact hr
  · rw [← hfault] at hvalid hsev ⊢
    rw [← hbelt, ← htime, ← recordFault_overwrite _ _ _ hvalid hsev]
    exact hr
  · rw [← hfault] at hvalid hsev ⊢
    rw [← recordFault_overflow .duplicateNumber .stop none none hvalid (.inl hsev)]
    exact hr
  · rw [heq, hv]
    rfl
end

section
/-!
Placements that fail (O50, O51): the entry that goes or becomes uncertain, and the step of the streak, with the quick limit
that takes the station out of RUN.
-/
namespace Sys2Proof.Machine

variable {b d : BuildId} {s t u v w : State} {e : PlanEntry} {tag : Tag}

/-! ### Outcomes that take an entry away (R116, R118, R59) -/

/-- A build with no ending has nothing to settle (R57, R60). -/
theorem settleEnding_none (h : (s.build b).ending = .noEnding) : settleEnding b s = s := by
  rw [settleEnding_eq, settlingFrames_noEnding h, offerAll_nil, updateBuild_same (Build.settled_noEnding h)]

/-- A withdrawal and a settling after it write the same parts. -/
theorem Withdraws.settled_eq (h : Withdraws b s w) : settleEnding b w = { s with
    txQueue := (settleEnding b w).txQueue, positions := (settleEnding b w).positions,
    track := (settleEnding b w).track, throttled := (settleEnding b w).throttled, sweep := (settleEnding b w).sweep,
    pendingSweep := (settleEnding b w).pendingSweep, buildA := (settleEnding b w).buildA,
    buildB := (settleEnding b w).buildB, pick := (settleEnding b w).pick,
    counters := (settleEnding b w).counters } := by
  rw [settleEnding_kept, h.eq]

/-- A withdrawal and a settling after it leave every built surface. -/
theorem Withdraws.settled_built (h : Withdraws b s w) (c : BuildId) :
    ((settleEnding b w).build c).built = (s.build c).built := by
  by_cases hc : c = b
  · subst hc
    rw [settleEnding_build, (w.build c).settled_kept.2.1, h.built]
  · rw [settleEnding_other hc, h.other c hc]

/-- The settling leaves the plan list and the pick order list. -/
theorem settleEnding_lists (b : BuildId) (s : State) :
    ((settleEnding b s).build b).plan = (s.build b).plan ∧ (settleEnding b s).pick = s.pick ∧
      ∀ f ∈ s.txQueue, f ∈ (settleEnding b s).txQueue := by
  refine ⟨by rw [settleEnding_build, (s.build b).settled_kept.1], by rw [settleEnding_kept], fun f hf => ?_⟩
  obtain ⟨k, hk, -⟩ := settleEnding_txQueue b s
  rw [hk]
  exact List.mem_append_left _ hf

/-- An uncertain entry that a release drops is removed alone (R59). -/
theorem recompute_dropEntry_withdraws (e : PlanEntry) : Withdraws b s (recompute b (dropEntry b e s)) :=
  (dropEntry_withdraws e).trans recompute_withdraws

theorem recompute_dropEntry_not_planned (e : PlanEntry) :
    ∀ x ∈ ((recompute b (dropEntry b e s)).build b).plan, x.tag ≠ e.tag := by
  refine recompute_withdraws.not_planned _ ?_
  rw [dropEntry, leavePick_build]
  exact takeOut_not_planned e

/-! ### The quick limit (R126 to R128, R130) -/

/-- What the quick limit does to the station: P rises, the station stalls or pauses with its fault, and it has left RUN
with its claims (R39, R127, R128, R130). -/
structure QuickLimit (d : BuildId) (tag : Option Tag) (s t : State) : Prop where
  cycles : t.cycles = min (s.cycles + 1) 255
  stall : s.own2.stallLatch = true ∧ t.cycles = 5 → t.station = .stalled ∧ t.pauseTimer = s.pauseTimer ∧
    t.fault = (recordFault .stall .stop (some d) tag s).fault
  pause : ¬ (s.own2.stallLatch = true ∧ t.cycles = 5) → t.station = .paused ∧ t.pauseTimer = some s.timeBase ∧
    t.fault = (recordFault .pause .attn (some d) tag s).fault
  lightens : Lightens { s with station := t.station, cycles := t.cycles, pauseTimer := t.pauseTimer }
    { t with fault := s.fault }
  onLine : ∀ f ∈ t.txQueue, f.isClaim = true → f.inTransmission = true

/-- Leaving RUN with a fault recorded after it: the claims go, the time and the station stay as they were set. -/
theorem leaveRun_recorded (cause : FaultCause) (severity : Severity) (d : BuildId) (tag : Option Tag) (v : State)
    (ht : t = recordFault cause severity (some d) tag (leaveRun v)) :
    t.cycles = v.cycles ∧ t.station = v.station ∧ t.pauseTimer = v.pauseTimer ∧
      t.fault = (recordFault cause severity (some d) tag v).fault ∧ Lightens v { t with fault := v.fault } ∧
      ∀ f ∈ t.txQueue, f.isClaim = true → f.inTransmission = true := by
  have hl := leaveRun_lightens v
  have hon := leaveRun_onLine v
  obtain ⟨l, hlv⟩ : ∃ l, l = leaveRun v := ⟨_, rfl⟩
  rw [← hlv] at ht hl hon
  subst ht
  refine ⟨hl.frame.cycles, hl.frame.station, hl.frame.pauseTimer, ?_, ?_, hon⟩
  · rw [recordFault, recordFault]
    dsimp only
    rw [hl.fault, hl.frame.belt, hl.frame.timeBase]
  · rw [← hl.fault]
    exact hl

theorem reachQuickLimit_spec (d : BuildId) (tag : Option Tag) (s : State) :
    QuickLimit d tag s (reachQuickLimit d tag s) := by
  obtain ⟨t, ht⟩ : ∃ t, t = reachQuickLimit d tag s := ⟨_, rfl⟩
  rw [← ht]
  by_cases hstall : s.own2.stallLatch = true ∧ min (s.cycles + 1) 255 = 5
  · obtain ⟨v, hv⟩ : ∃ v : State, v = { s with cycles := min (s.cycles + 1) 255, station := .stalled } := ⟨_, rfl⟩
    have hrun : t = recordFault .stall .stop (some d) tag (leaveRun v) := by
      rw [ht, hv]
      exact if_pos (by simp [saturate255, hstall])
    obtain ⟨hcycles, hstation, htimer, hfault, hlight, hon⟩ := leaveRun_recorded _ _ _ _ _ hrun
    have hset : { s with station := t.station, cycles := t.cycles, pauseTimer := t.pauseTimer } = v := by
      rw [hcycles, hstation, htimer, hv]
    refine ⟨by rw [hcycles, hv], fun _ => ⟨by rw [hstation, hv], by rw [htimer, hv], by rw [hfault, hv]; rfl⟩,
      fun hno => absurd ⟨hstall.1, by rw [hcycles, hv]; exact hstall.2⟩ hno, ?_, hon⟩
    rw [hset, show s.fault = v.fault by rw [hv]]
    exact hlight
  · obtain ⟨v, hv⟩ : ∃ v : State, v = { s with
        cycles := min (s.cycles + 1) 255, station := .paused, pauseTimer := some s.timeBase } := ⟨_, rfl⟩
    have hrun : t = recordFault .pause .attn (some d) tag (leaveRun v) := by
      rw [ht, hv]
      exact if_neg (by simpa [saturate255] using hstall)
    obtain ⟨hcycles, hstation, htimer, hfault, hlight, hon⟩ := leaveRun_recorded _ _ _ _ _ hrun
    have hset : { s with station := t.station, cycles := t.cycles, pauseTimer := t.pauseTimer } = v := by
      rw [hcycles, hstation, htimer, hv]
    have hmin : t.cycles = min (s.cycles + 1) 255 := by rw [hcycles, hv]
    refine ⟨hmin, fun hno => absurd ⟨hno.1, hmin.symm.trans hno.2⟩ hstall,
      fun _ => ⟨by rw [hstation, hv], by rw [htimer, hv], by rw [hfault, hv]; rfl⟩, ?_, hon⟩
    rw [hset, show s.fault = v.fault by rw [hv]]
    exact hlight

/-- A failure that meets the quick limit in force adds one to F and reaches the limit (R124, R126). -/
theorem streakFailure_reaches (d : BuildId) (tag : Option Tag) (hst : s.station = .run) (h15 : s.streak < 15)
    (h : s.streak + 1 = (if s.cycles = 0 then s.own2.q1 else s.own2.q2)) :
    streakFailure d tag s = reachQuickLimit d tag { s with streak := s.streak + 1 } := by
  have hmin : min (s.streak + 1) 15 = s.streak + 1 := Nat.min_eq_left h15
  rw [streakFailure]
  simp only [hmin]
  exact if_pos ⟨hst, h⟩

end Sys2Proof.Machine

open Sys2Proof Sys2Proof.Machine

/-- Settles O50. -/
theorem failedPlacementsStepTheStreak : Obligations.FailedPlacementsStepTheStreak := by
  rintro s seq p check g tag e hpass hg hk rfl hdiscard htag he hst hend hrobot hstation hlimit h15 hroom
  obtain ⟨v, hv⟩ : ∃ v : State, v = { s with inFlight := none, receiver := .idle } := ⟨_, rfl⟩
  have hvb (c : BuildId) : v.build c = s.build c := by rw [hv]; exact build_congr rfl rfl c
  have het : e.tag = tag := findEntry_tag he
  have hentry : flightEntry g v = some e := flightEntry_eq htag (by rw [findEntry_congr (hvb _)]; exact he) hst
  have hdone (o : PlaceOutcome) (ho : outcomeOf p = some o) :
      placeDone g.seq p check s = runArbiter (takeOutcome o (measuredWeight p) g.build e v) := by
    have hfree : freePort (receiverIdle s) = v := by rw [hv]; rfl
    rw [placeDone_matched hg hk hpass ho, takePlaceDone]
    simp only [hdiscard, Bool.false_eq_true, if_false, hfree, hentry]
  refine ⟨fun ho => ?_, fun ho hdue => ?_⟩
  · obtain ⟨w, hw⟩ : ∃ w, w = withdrawAlone g.build .notPicked e v := ⟨_, rfl⟩
    have hwithdraws : Withdraws g.build v w := hw ▸ withdrawAlone_withdraws .notPicked e
    have hsettled : outcomeNotPicked g.build e v = w := by
      rw [outcomeNotPicked, ← hw]
      exact settleEnding_none (by rw [hwithdraws.same, hvb, hend])
    have hstreak : streakFailure g.build (some e.tag) w = { w with streak := s.streak + 1 } := by
      rw [streakFailure_below _ _ (by rw [hwithdraws.eq, hv]; exact hlimit) (by rw [hwithdraws.eq, hv]; exact h15),
        hwithdraws.eq, hv]
    have hrun : placeDone g.seq p check s = { w with streak := s.streak + 1 } := by
      have hboth : ∃ o, outcomeOf p = some o ∧
          takeOutcome o (measuredWeight p) g.build e v = { w with streak := s.streak + 1 } := by
        rcases ho with ho | ho
        · exact ⟨.missed, by simp [outcomeOf, ho], by rw [takeOutcome, hsettled, hstreak]⟩
        · exact ⟨.refused, by simp [outcomeOf, ho], by rw [takeOutcome, hsettled, hstreak]⟩
      obtain ⟨o, ho, htake⟩ := hboth
      rw [hdone o ho, htake]
      exact runArbiter_robot (by rw [hwithdraws.eq, hv]; exact hrobot)
    have hbuilds (c : BuildId) : (showBeacons { w with streak := s.streak + 1 }).build c = w.build c := by
      rw [showBeacons_build]
      exact build_congr rfl rfl c
    obtain ⟨hpick, -, hmiss⟩ := withdrawAlone_placed (b := g.build) (s := v) (e := e) .notPicked (by simp [hst])
    refine ⟨_, congrArg done hrun, ?_, ?_, ?_, ?_, fun hnodup => ?_, fun c hc => ?_, ?_⟩
    · rw [hbuilds, hw, ← het]
      exact withdrawAlone_not_planned .notPicked
    · rw [← hw, het] at hpick
      exact hpick
    · rw [← hw, het] at hmiss
      exact hmiss (by rw [hv]; simp [hstation]) (by rw [hv]; exact hroom)
    · rw [hbuilds, hwithdraws.built, hvb]
    · have h := withdrawAlone_recomputed (b := g.build) (s := v) .notPicked e (by rw [hvb]; exact hnodup)
      rw [hvb, het, ← hw, show v.line = s.line by rw [hv]; rfl] at h
      rw [hbuilds]
      exact h
    · rw [hbuilds, hwithdraws.other c hc, hvb]
    · rw [hwithdraws.eq, hv]
      rfl
  · obtain ⟨u, hu, hub, huo, hueq⟩ := updateBuild_spec g.build (Build.unsure tag .notPlacedOnly) v
    have hrun : placeDone g.seq p check s = { u with streak := s.streak + 1 } := by
      rw [hdone .dropped (by simp [outcomeOf, ho]), takeOutcome,
        becomeUncertain_eq e _ (by rw [hvb, hend]; decide), het, ← hu,
        streakFailure_below _ _ (by rw [hueq, hv]; exact hlimit) (by rw [hueq, hv]; exact h15)]
      rw [runArbiter_robot (by rw [hueq, hv]; exact hrobot), hueq, hv]
    have hbuilds (c : BuildId) : (showBeacons { u with streak := s.streak + 1 }).build c = u.build c := by
      rw [showBeacons_build]
      exact build_congr rfl rfl c
    refine ⟨_, congrArg done hrun, ?_, fun c hc => ?_, ?_⟩
    · rw [hbuilds, hub, hvb, Build.unsure, hdue]
      rfl
    · rw [hbuilds, huo c hc, hvb]
    · rw [hueq, hv]
      rfl
end

section
/-!
The quick limit (O51): the failed placement is taken as below the limit, and then the station pauses or stalls.
-/
namespace Sys2Proof.Machine

variable {b d : BuildId} {s t u v w : State} {e : PlanEntry} {tag : Tag}

/-! ### A failed placement before its streak (R116 to R119, R134) -/

/-- What a failed placement leaves as it was. -/
structure FailureTaken (v w : State) : Prop where
  eq : w = { v with
    txQueue := w.txQueue, positions := w.positions, track := w.track, throttled := w.throttled, sweep := w.sweep,
    pendingSweep := w.pendingSweep, buildA := w.buildA, buildB := w.buildB, pick := w.pick, counters := w.counters }
  built : ∀ c, (w.build c).built = (v.build c).built

/-- MISSED and REFUSED: the case has left both lists with its MISS (R116, R118). -/
theorem outcomeNotPicked_taken (b : BuildId) (v : State) (he : e.state = .placing) :
    FailureTaken v (outcomeNotPicked b e v) ∧
      (∀ z ∈ ((outcomeNotPicked b e v).build b).plan, z.tag ≠ e.tag) ∧
      (∀ q ∈ (outcomeNotPicked b e v).pick, q.tag ≠ e.tag) ∧
      (v.station ≠ .silent → v.txQueue.length < 8 →
        TxFrame.fresh (.miss e.tag .notPicked) ∈ (outcomeNotPicked b e v).txQueue) := by
  have hw : Withdraws b v (withdrawAlone b .notPicked e v) := withdrawAlone_withdraws .notPicked e
  obtain ⟨hplan, hpick, hframes⟩ := settleEnding_lists b (withdrawAlone b .notPicked e v)
  obtain ⟨hgone, -, hmiss⟩ := withdrawAlone_placed (b := b) (s := v) (e := e) .notPicked (by simp [he])
  refine ⟨⟨hw.settled_eq, hw.settled_built⟩, ?_, ?_, fun hst hroom => hframes _ (hmiss hst hroom)⟩
  · rw [outcomeNotPicked, hplan]
    exact withdrawAlone_not_planned .notPicked
  · rw [outcomeNotPicked, hpick]
    exact hgone

/-- DROPPED and the expiry: a release that waits loses the entry, any other build keeps it uncertain (R59, R117, R134). -/
theorem becomeUncertain_taken (h : Hypotheses) (he : e ∈ (v.build b).plan) :
    FailureTaken v (becomeUncertain b e h v) ∧
      ((v.build b).ending = .release → ∀ z ∈ ((becomeUncertain b e h v).build b).plan, z.tag ≠ e.tag) ∧
      ((v.build b).ending ≠ .release →
        ((v.build b).scanDue = none → ((becomeUncertain b e h v).build b).scanDue = some .uncertain) ∧
        { e with uncertain := some h } ∈ ((becomeUncertain b e h v).build b).plan ∧
        ((becomeUncertain b e h v).build b).plan.map PlanEntry.tag = (v.build b).plan.map PlanEntry.tag) := by
  by_cases hend : (v.build b).ending = .release
  · have hw := recompute_dropEntry_withdraws (b := b) (s := v) e
    rw [becomeUncertain, if_pos hend]
    refine ⟨⟨hw.settled_eq, hw.settled_built⟩, fun _ => ?_, fun hno => absurd hend hno⟩
    rw [(settleEnding_lists b _).1]
    exact recompute_dropEntry_not_planned e
  · obtain ⟨u, hu, hub, huo, hueq⟩ := updateBuild_spec b (Build.unsure e.tag h) v
    rw [becomeUncertain_eq e h hend, ← hu]
    refine ⟨⟨?_, fun c => ?_⟩, fun hrel => absurd hrel hend, fun _ => ⟨fun hdue => ?_, ?_, ?_⟩⟩
    · rw [hueq]
    · by_cases hc : c = b
      · rw [hc, hub]
        rfl
      · rw [huo c hc]
    · rw [hub, Build.unsure, hdue]
      rfl
    · rw [hub]
      exact List.mem_map.mpr ⟨e, he, if_pos rfl⟩
    · rw [hub, Build.unsure, List.map_map]
      refine List.map_congr_left fun z _ => ?_
      rw [Function.comp_apply]
      split_ifs <;> rfl

/-! ### The failure that meets the limit (R126 to R128, R130) -/

/-- What a failed placement at the quick limit leaves as it was (R39, R127). -/
theorem QuickLimit.eq {tag : Option Tag} (h : QuickLimit d tag s t) : t = { s with
    station := t.station, cycles := min (s.cycles + 1) 255, pauseTimer := t.pauseTimer, txQueue := t.txQueue,
    positions := t.positions, track := t.track, throttled := t.throttled, sweep := t.sweep,
    pendingSweep := t.pendingSweep, buildA := t.buildA, buildB := t.buildB, pick := t.pick, fault := t.fault,
    counters := t.counters } := by
  have heq := h.lightens.eq
  have hkeep : t = { ({ t with fault := s.fault } : State) with fault := t.fault } := rfl
  conv_lhs => rw [hkeep, heq, h.cycles]

/-- A failed placement up to its streak: the state v in which the port is free, and w with the outcome or the expiry
taken, whose fault record is r (R113, R114, R116 to R119). -/
structure FailureStep (s : State) (cmd : Instr) (p : List Byte) (g : InFlight) (tag : Tag) (e : PlanEntry) (v w : State)
    (r : FaultRecord) : Prop where
  exec : exec cmd s = done (runArbiter (streakFailure g.build (some tag) { w with fault := r }))
  before : v = { s with
    inFlight := none, receiver := if cmd = .placeExpiry then s.receiver else .idle, timeBase := v.timeBase }
  sameTime : cmd ≠ .placeExpiry → v.timeBase = s.timeBase
  elapsed : cmd = .placeExpiry → g.limitMs < 2 ^ 32 → g.limitMs ≤ (v.timeBase - g.startedAt).toNat
  taken : FailureTaken v w
  fault : s.fault.valid = false → r = if cmd = .placeExpiry
    then ⟨true, false, .attn, some .placeTimeout, some g.build, some tag, s.belt, v.timeBase⟩ else s.fault
  gone : cmd ≠ .placeExpiry → (byteAt p 0).toNat ≠ 3 →
    (∀ z ∈ (w.build g.build).plan, z.tag ≠ tag) ∧ (∀ q ∈ w.pick, q.tag ≠ tag) ∧
      (s.station ≠ .silent → s.txQueue.length < 8 → TxFrame.fresh (.miss tag .notPicked) ∈ w.txQueue)
  unsure : cmd = .placeExpiry ∨ (byteAt p 0).toNat = 3 →
    ((s.build g.build).ending = .release → ∀ z ∈ (w.build g.build).plan, z.tag ≠ tag) ∧
      ((s.build g.build).ending ≠ .release →
        ((s.build g.build).scanDue = none → (w.build g.build).scanDue = some .uncertain) ∧
        { e with uncertain := some (if cmd = .placeExpiry then .placedOrNot else .notPlacedOnly) } ∈
          (w.build g.build).plan ∧
        (w.build g.build).plan.map PlanEntry.tag = (s.build g.build).plan.map PlanEntry.tag)

section
variable {g : InFlight} (hg : s.inFlight = some g) (hk : g.kind = .place) (hdiscard : g.discard = false)
  (htag : g.tag = some tag) (he : findEntry g.build tag s = some e) (hst : e.state = .placing)
include hg hk hdiscard htag he hst

theorem placeExpiry_step (p : List Byte) : ∃ v w r, FailureStep s .placeExpiry p g tag e v w r := by
  obtain ⟨v, hv⟩ : ∃ v, v = expireFlight g s := ⟨_, rfl⟩
  have hveq : v = { s with inFlight := none, timeBase := v.timeBase } := by rw [hv]; rfl
  have hvb (c : BuildId) : v.build c = s.build c := by rw [hveq]; exact build_congr rfl rfl c
  have het : e.tag = tag := findEntry_tag he
  have hentry : flightEntry g v = some e := flightEntry_eq htag (by rw [findEntry_congr (hvb _)]; exact he) hst
  have hmem : e ∈ (v.build g.build).plan := by rw [hvb]; exact findEntry_mem he
  obtain ⟨htaken, hrelease, hkept⟩ := becomeUncertain_taken (b := g.build) (v := v) .placedOrNot hmem
  obtain ⟨w, hw⟩ : ∃ w, w = becomeUncertain g.build e .placedOrNot v := ⟨_, rfl⟩
  rw [← hw] at htaken hrelease hkept
  rw [hvb, het] at hrelease
  rw [hvb] at hkept
  have hrun : placeExpiry s = runArbiter (streakFailure g.build (some tag)
      (recordFault .placeTimeout .attn (some g.build) (some tag) w)) := by
    have hflight : flightOf .place s = some g := hk ▸ flightOf_some hg
    simp only [placeExpiry, hflight, hdiscard, Bool.false_eq_true, if_false, ← hv, hentry, placeExpired, ← hw, het]
  exact ⟨v, w, (recordFault .placeTimeout .attn (some g.build) (some tag) w).fault,
    { exec := congrArg done hrun
      before := hveq
      sameTime := fun h => absurd rfl h
      elapsed := fun _ hms => hv ▸ runTo_elapsed g.startedAt hms s
      taken := htaken
      fault := fun hvalid => by
        rw [recordFault_clear _ _ _ _ (by rw [htaken.eq, hveq]; exact hvalid), htaken.eq, hveq]
        rfl
      gone := fun h => absurd rfl h
      unsure := fun _ => ⟨hrelease, hkept⟩ }⟩

theorem placeDone_step {p : List Byte} {check : Byte} (hpass : recordPasses 0x81 g.seq p check = true)
    (ho : (byteAt p 0).toNat = 2 ∨ (byteAt p 0).toNat = 3 ∨ (byteAt p 0).toNat = 4) :
    ∃ v w r, FailureStep s (.placeDone g.seq p check) p g tag e v w r := by
  obtain ⟨v, hv⟩ : ∃ v : State, v = { s with inFlight := none, receiver := .idle } := ⟨_, rfl⟩
  have hvb (c : BuildId) : v.build c = s.build c := by rw [hv]; exact build_congr rfl rfl c
  have het : e.tag = tag := findEntry_tag he
  have hentry : flightEntry g v = some e := flightEntry_eq htag (by rw [findEntry_congr (hvb _)]; exact he) hst
  have hmem : e ∈ (v.build g.build).plan := by rw [hvb]; exact findEntry_mem he
  have hdone (o : PlaceOutcome) (ho : outcomeOf p = some o) :
      placeDone g.seq p check s = runArbiter (takeOutcome o (measuredWeight p) g.build e v) := by
    have hfree : freePort (receiverIdle s) = v := by rw [hv]; rfl
    rw [placeDone_matched hg hk hpass ho, takePlaceDone]
    simp only [hdiscard, Bool.false_eq_true, if_false, hfree, hentry]
  have hbefore : v = { s with inFlight := none, receiver := .idle, timeBase := v.timeBase } := by rw [hv]
  have htime : v.timeBase = s.timeBase := by rw [hv]
  by_cases h3 : (byteAt p 0).toNat = 3
  · obtain ⟨htaken, hrelease, hkept⟩ := becomeUncertain_taken (b := g.build) (v := v) .notPlacedOnly hmem
    have hrun := hdone .dropped (by simp [outcomeOf, h3])
    rw [takeOutcome, het] at hrun
    obtain ⟨w, hw⟩ : ∃ w, w = becomeUncertain g.build e .notPlacedOnly v := ⟨_, rfl⟩
    rw [← hw] at htaken hrelease hkept hrun
    rw [hvb, het] at hrelease
    rw [hvb] at hkept
    exact ⟨v, w, w.fault,
      { exec := congrArg done hrun
        before := hbefore
        sameTime := fun _ => htime
        elapsed := fun h => nomatch h
        taken := htaken
        fault := fun _ => by rw [htaken.eq, hv]; rfl
        gone := fun _ hno => absurd h3 hno
        unsure := fun _ => ⟨hrelease, hkept⟩ }⟩
  · obtain ⟨htaken, hplan, hpick, hmiss⟩ := outcomeNotPicked_taken g.build v hst
    have hrun : placeDone g.seq p check s =
        runArbiter (streakFailure g.build (some tag) (outcomeNotPicked g.build e v)) := by
      rw [← het]
      rcases ho with ho | ho | ho
      · exact hdone .missed (by simp [outcomeOf, ho])
      · exact absurd ho h3
      · exact hdone .refused (by simp [outcomeOf, ho])
    obtain ⟨w, hw⟩ : ∃ w, w = outcomeNotPicked g.build e v := ⟨_, rfl⟩
    rw [← hw] at htaken hplan hpick hmiss hrun
    rw [het] at hplan hpick hmiss
    exact ⟨v, w, w.fault,
      { exec := congrArg done hrun
        before := hbefore
        sameTime := fun _ => htime
        elapsed := fun h => nomatch h
        taken := htaken
        fault := fun _ => by rw [htaken.eq, hv]; rfl
        gone := fun _ _ => ⟨hplan, hpick, by rw [hv] at hmiss; exact hmiss⟩
        unsure := fun h => absurd (h.resolve_left nofun) h3 }⟩

end

end Sys2Proof.Machine

open Sys2Proof Sys2Proof.Machine

/-- Settles O51: the outcome is taken, and then the limit is reached with the fault that the outcome left. -/
theorem quickLimitPausesOrStalls : Obligations.QuickLimitPausesOrStalls := by
  refine ⟨fun s b tag hst h15 hlimit hvalid => ?_, ?_⟩
  · have hq := reachQuickLimit_spec b tag { s with streak := s.streak + 1 }
    rw [← streakFailure_reaches b tag hst h15 hlimit] at hq
    obtain ⟨t, ht⟩ : ∃ t, t = streakFailure b tag s := ⟨_, rfl⟩
    rw [← ht] at hq
    refine ⟨t, ht, hq.eq, fun h => ?_, fun h => ?_, hq.onLine⟩
    · obtain ⟨hstation, htimer, hfault⟩ := hq.stall h
      exact ⟨hstation, htimer, hfault.trans (recordFault_clear _ _ _ _ hvalid)⟩
    · obtain ⟨hstation, htimer, hfault⟩ := hq.pause h
      exact ⟨hstation, htimer, hfault.trans (recordFault_clear _ _ _ _ hvalid)⟩
  · rintro s cmd seq p check g tag e x hg hk hdiscard htag he hst rfl hnodup hrobot hstation h15 hlimit hvalid hcmd
    obtain ⟨v, w, r, h⟩ : ∃ v w r, FailureStep s cmd p g tag e v w r := by
      rcases hcmd with rfl | ⟨rfl, hpass, rfl, ho⟩
      · exact placeExpiry_step hg hk hdiscard htag he hst p
      · exact placeDone_step hg hk hdiscard htag he hst hpass ho
    have hweq := h.taken.eq
    have hveq := h.before
    obtain ⟨u, hu⟩ : ∃ u : State, u = { w with fault := r, streak := s.streak + 1 } := ⟨_, rfl⟩
    have hq := reachQuickLimit_spec g.build (some tag) u
    have hreach : streakFailure g.build (some tag) { w with fault := r } = reachQuickLimit g.build (some tag) u := by
      rw [streakFailure_reaches _ _ (by rw [hweq, hveq]; exact hstation) (by rw [hweq, hveq]; exact h15)
        (by rw [hweq, hveq]; exact hlimit), hu, hweq, hveq]
    have hexec := h.exec
    obtain ⟨t, ht⟩ : ∃ t, t = reachQuickLimit g.build (some tag) u := ⟨_, rfl⟩
    rw [← ht] at hq hreach
    have hteq := hq.eq
    rw [hreach, runArbiter_robot (by rw [hteq, hu, hweq, hveq]; exact hrobot)] at hexec
    have htime : t.timeBase = v.timeBase := by rw [hteq, hu, hweq]
    have hub (c : BuildId) : u.build c = w.build c := by rw [hu]; exact build_congr rfl rfl c
    have hvb (c : BuildId) : v.build c = s.build c := by rw [hveq]; exact build_congr rfl rfl c
    have hcycles : u.cycles = s.cycles := by rw [hu, hweq, hveq]
    have htimer : u.pauseTimer = s.pauseTimer := by rw [hu, hweq, hveq]
    have hown : u.own2 = s.own2 := by rw [hu, hweq, hveq]; rfl
    have hub (c : BuildId) : u.build c = w.build c := by rw [hu]; exact build_congr rfl rfl c
    have hvb (c : BuildId) : v.build c = s.build c := by rw [hveq]; exact build_congr rfl rfl c
    have hfault : u.fault = if cmd = .placeExpiry
        then ⟨true, false, .attn, some .placeTimeout, some g.build, some tag, s.belt, v.timeBase⟩ else s.fault := by
      rw [hu]
      exact h.fault hvalid
    have hubelt : u.belt = s.belt := by rw [hu, hweq, hveq]
    have hutime : u.timeBase = v.timeBase := by rw [hu, hweq]
    have hbuild (c : BuildId) : t.build c = { w.build c with
        planned := (t.build c).planned, plan := (t.build c).plan, lines := (t.build c).lines } :=
      (hq.lightens.same c).trans (by rw [← hub]; rfl)
    have hplan (z : PlanEntry) (hz : z ∈ (t.build g.build).plan) : z ∈ (w.build g.build).plan := by
      rw [← hub]
      exact (hq.lightens.plan g.build).subset hz
    refine ⟨_, _, hexec, rfl, fun b => ?_, ?_, fun hc => ?_, fun hc hms => ?_, fun hc => ?_, fun hc => ?_, hq.onLine,
      fun hc h3 => ?_, fun hc => ?_⟩
    · rw [showBeacons_build, hbuild, h.taken.built, hvb]
    · rw [hteq, hu, hweq, hveq]
      rfl
    · exact htime.trans (h.sameTime hc)
    · rw [showBeacons_timeBase, htime]
      exact h.elapsed hc hms
    · obtain ⟨hstalled, hkept, hrecord⟩ := hq.stall (by rw [hown]; exact hc)
      refine ⟨hstalled, hkept.trans htimer, hrecord.trans ?_⟩
      rw [showBeacons_timeBase, htime, recordFault, hfault, hubelt, hutime]
      by_cases hexpiry : cmd = .placeExpiry
      · simp [hexpiry]
      · simp [hexpiry, hvalid, h.sameTime hexpiry]
    · obtain ⟨hpaused, hset, hrecord⟩ := hq.pause (by rw [hown]; exact hc)
      refine ⟨hpaused, by rw [showBeacons_timeBase, htime, ← hutime]; exact hset, hrecord.trans ?_⟩
      rw [showBeacons_timeBase, htime, recordFault, hfault, hubelt, hutime]
      by_cases hexpiry : cmd = .placeExpiry
      · simp [hexpiry]
      · simp [hexpiry, hvalid, h.sameTime hexpiry]
    · obtain ⟨hgone, hpick, hmiss⟩ := h.gone hc h3
      refine ⟨fun z hz => hgone z (hplan z (by rw [← showBeacons_build]; exact hz)), fun q hq' => hpick q ?_,
        fun hroom => hq.lightens.kept _ ?_ rfl⟩
      · have := hq.lightens.pick.subset hq'
        rwa [hu] at this
      · rw [hu]
        exact hmiss (by simp [hstation]) hroom
    · obtain ⟨hrelease, hkept⟩ := h.unsure hc
      refine ⟨fun hend z hz => hrelease hend z (hplan z (by rw [← showBeacons_build]; exact hz)), fun hend => ?_⟩
      obtain ⟨hdue, hentry, htags⟩ := hkept hend
      rw [showBeacons_build]
      refine ⟨fun hno => ?_, ?_⟩
      · rw [hbuild]
        exact hdue hno
      · refine hq.lightens.placing g.build ?_ _ ?_ hst
        · exact (congrArg (fun x => (x.plan.map PlanEntry.tag).Nodup) (hub _)).mpr (htags ▸ hnodup)
        · exact (congrArg (fun x => _ ∈ Build.plan x) (hub _)).mpr hentry
end

section
/-!
A case taken as placed (R93 to R96): the build that carries it, the entries that leave, and the reports and the settling
of an ending that follow. O49 and the placed result of a scan (O52) are assembled from these.
-/
namespace Sys2Proof.Machine

variable {b : BuildId} {s t u v w a : State} {e : PlanEntry} {weight : Nat} {clamped : Bool}

/-! ### Steps 2 and 3: the built surface and OVERLOAD (R93, R95) -/

/-- A build that an OVERLOAD brings to HELD, unless it is there (R95). -/
def Build.overloaded (clamped : Bool) (x : Build) : Build :=
  if clamped = true ∧ x.state ≠ .held then x.hold .noOrigin else x

/-- The entries that the batch of an OVERLOAD withdraws (R53, R95). -/
def overloadBatch (clamped : Bool) (x : Build) : List PlanEntry :=
  if clamped = true ∧ x.state ≠ .held then movable x else []

/-- The case stands on the built surface; a clamp records the fault and brings the build to HELD with its batch of
withdrawals (R93, R95). -/
theorem applyAndHold_removes (b : BuildId) (e : PlanEntry) (weight : Nat) (s : State)
    (hc : clamped = anyClamped (s.build b).built e.foot weight) :
    ∃ u, Removes b u ((overloadBatch clamped (s.build b)).map (.withdrawn .withdrawn)) (applyAndHold b e weight s) ∧
      u.build b = { (s.build b).overloaded clamped with
        built := (s.build b).built.apply e.foot e.h weight e.rating } ∧
      (∀ c, c ≠ b → u.build c = s.build c) ∧
      u = { s with buildA := u.buildA, buildB := u.buildB, fault := u.fault } ∧
      u.fault = if clamped then (recordFault .overload .attn (some b) (some e.tag) s).fault else s.fault := by
  obtain ⟨v, hv, hvb, hvo, hveq⟩ :=
    updateBuild_spec b (fun x => { x with built := x.built.apply e.foot e.h weight e.rating }) s
  have hrun : applyAndHold b e weight s = if clamped then overload b e.tag v else v := by
    rw [hc, hv]
    rfl
  rw [hrun]
  cases clamped with
  | false => exact ⟨v, by simpa [overloadBatch] using .refl v, by simpa [Build.overloaded] using hvb, hvo, by rw [hveq],
      by rw [hveq]; rfl⟩
  | true =>
    obtain ⟨r, hr⟩ : ∃ r, r = (recordFault .overload .attn (some b) (some e.tag) v).fault := ⟨_, rfl⟩
    have hrs : r = (recordFault .overload .attn (some b) (some e.tag) s).fault := by
      rw [hr, hveq]
      rfl
    have hfb (c : BuildId) : State.build { v with fault := r } c = v.build c := build_congr rfl rfl c
    have hstate : (State.build { v with fault := r } b).state = (s.build b).state := by rw [hfb, hvb]
    have hover : overload b e.tag v = if (s.build b).state = .held then { v with fault := r }
        else withdrawMovable b .withdrawn (updateBuild b (Build.hold .noOrigin) { v with fault := r }) := by
      rw [← hstate, hr]
      rfl
    rw [if_pos rfl, hover]
    by_cases hheld : (s.build b).state = .held
    · refine ⟨{ v with fault := r }, ?_, ?_, fun c hc => ?_, by rw [hveq], hrs⟩
      · rw [if_pos hheld]
        simpa [overloadBatch, hheld] using .refl _
      · rw [hfb, hvb]
        simp [Build.overloaded, hheld]
      · rw [hfb, hvo c hc]
    · obtain ⟨k, hk, hkb, hko, hkeq⟩ := updateBuild_spec b (Build.hold .noOrigin) { v with fault := r }
      rw [hfb, hvb] at hkb
      have hmovable : movable (k.build b) = movable (s.build b) := by rw [hkb]; rfl
      refine ⟨k, ?_, ?_, fun c hc => ?_, by rw [hkeq, hveq], by rw [hkeq]; exact hrs⟩
      · rw [if_neg hheld, ← hk]
        simpa [overloadBatch, hheld, hmovable] using withdrawMovable_removes (b := b) (s := k) .withdrawn
      · rw [hkb]
        simp [Build.overloaded, hheld, Build.hold]
      · rw [hko c hc, hfb, hvo c hc]

/-! ### Steps 4 and 5: the entry leaves, the order may be complete (R52, R93) -/

/-- A build that enters CLOSING where its order is complete (R52). -/
def Build.completed (x : Build) : Build := if completes x then x.enterClosing else x

theorem completeIfDone_eq (b : BuildId) (s : State) : completeIfDone b s = updateBuild b Build.completed s := by
  rw [completeIfDone]
  split_ifs with h
  · cases b <;> simp only [updateBuild, State.build] at h ⊢ <;> rw [Build.completed, if_pos h]
  · exact (updateBuild_same (by rw [Build.completed, if_neg h])).symm

/-- A build of a case taken as placed, before what stands planned is computed again (R52, R93, R95). -/
def Build.withPlaced (clamped : Bool) (e : PlanEntry) (x : Build) : Build :=
  let y := x.overloaded clamped
  if completes { y with lines := x.lines.modify e.line DemandLine.place } then y.enterClosing else y

/-- A case taken as placed up to the recomputation, from s to w (R93). -/
structure CasePlaced (b : BuildId) (e : PlanEntry) (weight : Nat) (clamped : Bool) (s w : State) : Prop where
  build : w.build b = { (s.build b).withPlaced clamped e with
    built := (s.build b).built.apply e.foot e.h weight e.rating
    planned := (w.build b).planned, plan := (w.build b).plan, lines := (w.build b).lines }
  other : ∀ c, c ≠ b → w.build c = s.build c
  eq : w = { s with
    txQueue := w.txQueue, positions := w.positions, track := w.track, throttled := w.throttled, sweep := w.sweep,
    pendingSweep := w.pendingSweep, buildA := w.buildA, buildB := w.buildB, pick := w.pick, fault := w.fault,
    counters := { s.counters with txDrop := w.counters.txDrop } }
  gone : ∀ z ∈ (w.build b).plan, z.tag ≠ e.tag
  unpicked : ∀ q ∈ w.pick, q.tag ≠ e.tag
  sweep : w.sweep.isSome = true
  placed : (w.build b).lines.map DemandLine.placed =
    ((s.build b).lines.modify e.line DemandLine.place).map DemandLine.placed
  placing : clamped = true → (s.build b).state ≠ .held → ∀ z ∈ (w.build b).plan, z.state = .placing
  fault : w.fault = if clamped then (recordFault .overload .attn (some b) (some e.tag) s).fault else s.fault
  recomputed : clamped = false → ((s.build b).plan.map PlanEntry.tag).Nodup → Recomputed s.line
    { s.build b with
      built := (s.build b).built.apply e.foot e.h weight e.rating
      plan := (s.build b).plan.filter (fun z => z.tag != e.tag) } (w.build b)
  few : w.txQueue.length + 1 ≤ s.txQueue.length + (s.build b).plan.length

/-- A placement raises the placed count of its line, whatever was withdrawn (R48). -/
theorem map_placed_modify_congr {l k : List DemandLine} (i : Nat)
    (h : l.map DemandLine.placed = k.map DemandLine.placed) :
    (l.modify i DemandLine.place).map DemandLine.placed = (k.modify i DemandLine.place).map DemandLine.placed := by
  refine List.ext_getElem? fun n => ?_
  have hn : l[n]?.map DemandLine.placed = k[n]?.map DemandLine.placed := by
    simpa only [List.getElem?_map] using congrArg (·[n]?) h
  simp only [List.getElem?_map, List.getElem?_modify]
  split_ifs
  · cases hl : l[n]? <;> cases hk : k[n]? <;> simp_all [DemandLine.place]
  · simpa using hn

/-- The batch leaves out the PLACING entry that is taken as placed. -/
theorem overloadBatch_length (clamped : Bool) {x : Build} (he : e ∈ x.plan) (hst : e.state = .placing) :
    (overloadBatch clamped x).length < x.plan.length := by
  rw [overloadBatch]
  split
  · exact List.length_filter_lt_length_iff_exists.mpr ⟨e, he, by simp [hst]⟩
  · exact List.length_pos_of_mem he

theorem Removes.length_le {l : List Removal} (h : Removes b s l t) : t.txQueue.length ≤ s.txQueue.length + l.length := by
  obtain ⟨F, added, hq⟩ := h.queueAfter
  exact hq.length_le

/-- A recomputation offers at most one MISS for each entry that falls (R86, R89). -/
theorem recompute_length_le (b : BuildId) (s : State) :
    (recompute b s).txQueue.length ≤ s.txQueue.length + ((s.build b).falls s.line).length := by
  obtain ⟨w, hw, -, hrun⟩ := recompute_removes b s
  have hlen := hw.length_le
  rw [List.length_map] at hlen
  rw [hrun]
  split_ifs <;> simpa using hlen

theorem takePlaced_placed (b : BuildId) (weight : Nat) {s : State} (he : e ∈ (s.build b).plan) (hst : e.state = .placing)
    (hc : clamped = anyClamped (s.build b).built e.foot weight) :
    CasePlaced b e weight clamped s
      (recompute b (completeIfDone b (leavePick e.tag (takeOutPlaced b e (applyAndHold b e weight s))))) := by
  obtain ⟨u, hbatch, hub, huo, hueq, hfault⟩ := applyAndHold_removes b e weight s hc
  obtain ⟨built, hbuilt⟩ : ∃ built, built = (s.build b).built.apply e.foot e.h weight e.rating := ⟨_, rfl⟩
  rw [← hbuilt] at hub
  obtain ⟨a, ha⟩ : ∃ a, a = applyAndHold b e weight s := ⟨_, rfl⟩
  rw [← ha] at hbatch ⊢
  have hua := hbatch.withdraws
  obtain ⟨k, hk, hkb, hko, hkeq⟩ := updateBuild_spec b (fun x => { x with
    plan := x.plan.filter (fun p => !(p.tag == e.tag)), lines := x.lines.modify e.line DemandLine.place }) a
  have hkp : Withdraws b (triggerSweep k) (leavePick e.tag (triggerSweep k)) := leavePick_withdraws e.tag
  have hp : leavePick e.tag (takeOutPlaced b e a) = leavePick e.tag (triggerSweep k) := by rw [hk]; rfl
  obtain ⟨p, hpdef⟩ : ∃ p, p = leavePick e.tag (triggerSweep k) := ⟨_, rfl⟩
  rw [hp, ← hpdef, completeIfDone_eq]
  rw [← hpdef] at hkp
  have hpb (c : BuildId) : p.build c = k.build c := by rw [hpdef, leavePick_build, triggerSweep_build]
  obtain ⟨q, hq, hqb, hqo, hqeq⟩ := updateBuild_spec b Build.completed p
  rw [← hq]
  have hqw : Withdraws b q (recompute b q) := recompute_withdraws
  obtain ⟨x, hx⟩ : ∃ x, x = s.build b := ⟨_, rfl⟩
  rw [← hx] at hbatch hub he hc
  have hab : a.build b = { x.overloaded clamped with
      built := built
      planned := (a.build b).planned, plan := (a.build b).plan, lines := (a.build b).lines } := by
    rw [hua.same, hub]
  have hstate : completes (p.build b) =
      completes { x.overloaded clamped with lines := x.lines.modify e.line DemandLine.place } := by
    rw [hpb, hkb, hab]
    by_cases hopen : (x.overloaded clamped).state = .opened
    · have hbatchnil : overloadBatch clamped x = [] ∧ x.overloaded clamped = x := by
        rw [overloadBatch, Build.overloaded]
        rw [Build.overloaded] at hopen
        split_ifs at hopen ⊢
        · cases hopen
        · exact ⟨rfl, rfl⟩
      rw [hbatchnil.1] at hbatch
      have hlines : (a.build b).lines = x.lines := by
        rw [hbatch.build, hub, hbatchnil.2]
        rfl
      rw [hlines]
      rfl
    · have hno : ((x.overloaded clamped).state == .opened) = false := by simpa using hopen
      simp only [completes, hno, Bool.false_and]
  have hplaced : (a.build b).lines.map DemandLine.placed = x.lines.map DemandLine.placed := by
    rw [hua.placed, hub, Build.overloaded]
    split_ifs <;> rfl
  have hkplan (z : PlanEntry) : z ∈ (k.build b).plan → z ∈ (a.build b).plan ∧ z.tag ≠ e.tag := by
    rw [hkb]
    intro hz
    simpa using hz
  have hqkeep : (q.build b).plan = (k.build b).plan ∧ (q.build b).lines = (k.build b).lines ∧
      (q.build b).built = (k.build b).built ∧ (q.build b).order = (k.build b).order := by
    rw [hqb, hpb, Build.completed]
    split_ifs <;> exact ⟨rfl, rfl, rfl, rfl⟩
  obtain ⟨hqplan, hqlines, hqbuilt, hqorder⟩ := hqkeep
  have hqcounters : q.counters = { s.counters with txDrop := q.counters.txDrop } := by
    have hp : p.counters = { s.counters with txDrop := p.counters.txDrop } := by
      rw [hkp.counters, triggerSweep_counters, hkeq]
      rw [hua.counters, hueq]
    rw [hqeq]
    exact hp
  have hqs : q = { s with
      txQueue := q.txQueue, positions := q.positions, track := q.track, throttled := q.throttled, sweep := q.sweep,
      pendingSweep := q.pendingSweep, buildA := q.buildA, buildB := q.buildB, pick := q.pick, fault := q.fault,
      counters := q.counters } := by
    rw [hqeq, hkp.eq, hkeq, hua.eq, hueq]
    rfl
  have hqfault : q.fault = u.fault := by
    rw [hqeq]
    exact hkp.fault.trans (by rw [triggerSweep_fault, hkeq]; exact hua.fault)
  have hqline : q.line = s.line := by rw [hqs]; rfl
  have hqtx : q.txQueue = a.txQueue := by
    rw [hqeq, hpdef, leavePick_txQueue, triggerSweep_txQueue, hkeq]
  have huplan : (u.build b).plan = x.plan := by
    rw [hub, Build.overloaded]
    split_ifs <;> rfl
  refine ⟨?_, fun c hcb => ?_, ?_, ?_, ?_, ?_, ?_, fun hcl hheld z hz => ?_, ?_, fun hcl hnodup => ?_, ?_⟩
  · have hqstate : q.build b = { x.withPlaced clamped e with
        built := built
        planned := (q.build b).planned, plan := (q.build b).plan, lines := (q.build b).lines } := by
      rw [hqb, Build.completed, hstate, hpb, hkb, hab, Build.withPlaced]
      split_ifs <;> rfl
    refine hqw.same.trans ?_
    rw [← hx, hx, ← hbuilt, ← hx, hqstate]
  · rw [hqw.other c hcb, hqo c hcb, hpb, hko c hcb, hua.other c hcb, huo c hcb]
  · have hwcounters : (recompute b q).counters = { s.counters with txDrop := (recompute b q).counters.txDrop } := by
      rw [hqw.counters, hqcounters]
    rw [← hwcounters]
    have hweq := hqw.eq
    obtain ⟨w, hw⟩ : ∃ w, w = recompute b q := ⟨_, rfl⟩
    rw [← hw] at hweq ⊢
    rw [hweq, hqs]
  · refine hqw.not_planned _ fun z hz => ?_
    rw [hqplan] at hz
    exact (hkplan z hz).2
  · refine hqw.not_picked _ fun z hz => ?_
    rw [hqeq, hpdef] at hz
    exact leavePick_not_picked e.tag z hz
  · refine hqw.sweep ?_
    rw [hqeq]
    exact hkp.sweep rfl
  · rw [hqw.placed, hqlines, hkb, ← hx]
    exact map_placed_modify_congr e.line hplaced
  · have hza : z ∈ (a.build b).plan := by
      refine (hkplan z ?_).1
      rw [← hqplan]
      exact hqw.plan.subset hz
    have hmovable : overloadBatch clamped x = movable (u.build b) := by
      rw [overloadBatch, if_pos ⟨hcl, hx ▸ hheld⟩, movable, movable, huplan]
    rw [hmovable] at hbatch
    exact Removes.placing_left (m := .withdrawn) (l := []) (by simpa using hbatch) z hza
  · rw [hqw.fault, hqfault, hfault]
  · have hkeepplan : (q.build b).plan = x.plan.filter (fun z => z.tag != e.tag) := by
      have hnil : overloadBatch clamped x = [] := by simp [overloadBatch, hcl]
      rw [hnil] at hbatch
      have haplan : (a.build b).plan = x.plan := by
        rw [hbatch.build, huplan]
        simp
      rw [hqplan, hkb, haplan]
      rfl
    have h := recompute_recomputed (b := b) (s := q) (by
      rw [hkeepplan]
      exact hnodup.sublist (by rw [← hx]; exact List.filter_sublist.map _))
    rw [hqline] at h
    refine h.congr ?_ ?_ ?_
    · rw [hqbuilt, hkb, hab]
      exact hbuilt.symm
    · rw [hkeepplan, hx]
    · rw [hqorder, hkb, hab, hx, Build.overloaded]
      split_ifs <;> rfl
  · have hrecompute := recompute_length_le b q
    have hbatchlen := hbatch.length_le
    rw [List.length_map, show u.txQueue = s.txQueue by rw [hueq]] at hbatchlen
    rw [hqtx] at hrecompute
    have hless := overloadBatch_length clamped he hst
    rw [← hx]
    by_cases hall : overloadBatch clamped x = []
    · rw [hall] at hbatch hbatchlen
      have haplan : (a.build b).plan = x.plan := by
        rw [hbatch.build, huplan]
        simp
      have hfalls : ((q.build b).falls q.line).length ≤ (q.build b).plan.length := (fallen_sublist _ _ _ _).length_le
      have hshort : (q.build b).plan.length < x.plan.length := by
        rw [hqplan, hkb, haplan]
        exact List.length_filter_lt_length_iff_exists.mpr ⟨e, he, by simp⟩
      rw [List.length_nil] at hbatchlen
      omega
    · have hmovable : overloadBatch clamped x = movable (u.build b) := by
        rw [overloadBatch] at hall ⊢
        split_ifs at hall ⊢
        · rw [movable, movable, huplan]
        · exact absurd rfl hall
      rw [hmovable] at hbatch
      have hfalls : (q.build b).falls q.line = [] := fallen_placing _ _ _ fun z hz => by
        refine Removes.placing_left (m := .withdrawn) (l := []) (by simpa using hbatch) z (hkplan z ?_).1
        rw [← hqplan]
        exact hz
      rw [hfalls, List.length_nil] at hrecompute
      omega

/-! ### The reports and the settling (R42, R57, R60) -/

theorem updateBuild_offerAll (g : Build → Build) (l : List TxBody) (s : State) :
    updateBuild b g (offerAll l s) = offerAll l (updateBuild b g s) := by
  induction l generalizing s with
  | nil => rfl
  | cons body l ih => rw [offerAll_cons, ih, updateBuild_offer, offerAll_cons]

theorem offerAll_append (l k : List TxBody) (s : State) : offerAll (l ++ k) s = offerAll k (offerAll l s) := by
  rw [offerAll, List.foldl_append]
  rfl

/-- The report of a change of state, and the frames of the settling behind it (R42, R57, R60). -/
def placedFrames (b : BuildId) (before : BuildState) (x : Build) : List TxBody :=
  (if x.state = before then [] else [.buildReport (reportOf b x)]) ++ settlingFrames b x

theorem placedFrames_length (before : BuildState) (x : Build) : (placedFrames b before x).length ≤ 3 := by
  have h := (settlingFrames_other (b := b) x).1
  rw [placedFrames, List.length_append]
  split_ifs <;> simp only [List.length_nil, List.length_singleton] <;> omega

/-- A change of the state is reported as it stands after the settling (R42). -/
theorem report_mem_placedFrames {before : BuildState} {x : Build} (h : x.settled.state ≠ before) :
    TxBody.buildReport (reportOf b x.settled) ∈ placedFrames b before x := by
  rw [placedFrames, List.mem_append]
  by_cases hsettles : x.settles = true ∧ x.ending ≠ .noEnding
  · right
    obtain ⟨hs, he⟩ := hsettles
    cases hend : x.ending with
    | noEnding => exact absurd hend he
    | cancel =>
      rw [settlingFrames_cancel hs hend]
      exact List.mem_singleton_self _
    | release =>
      rw [settlingFrames_release hs hend]
      exact List.mem_cons_of_mem _ (List.mem_singleton_self _)
  · have hsame : x.settled = x := by
      by_cases hs : x.settles = true
      · exact Build.settled_noEnding (not_not.mp fun he => hsettles ⟨hs, he⟩)
      · exact Build.settled_of_not (by simpa using hs)
    left
    rw [hsame] at h ⊢
    rw [if_neg h]
    exact List.mem_singleton_self _

/-- A case taken as placed, up to the settling: the state w is settled, and its frames are offered (R93 to R95). -/
structure TakenPlaced (b : BuildId) (e : PlanEntry) (weight : Nat) (clamped : Bool) (s w t : State) : Prop where
  placed : CasePlaced b e weight clamped s w
  build : t.build b = (w.build b).settled
  other : ∀ c, c ≠ b → t.build c = s.build c
  eq : t = { w with
    buildA := t.buildA, buildB := t.buildB, txQueue := t.txQueue
    counters := { w.counters with txDrop := t.counters.txDrop } }
  queue : s.station ≠ .silent → s.txQueue.length + (s.build b).plan.length ≤ 6 → t.txQueue =
    w.txQueue ++ (placedFrames b (s.build b).state (w.build b)).map TxFrame.fresh

theorem takePlaced_taken (b : BuildId) (weight : Nat) {s : State} (he : e ∈ (s.build b).plan) (hst : e.state = .placing)
    (hc : clamped = anyClamped (s.build b).built e.foot weight) :
    ∃ w, TakenPlaced b e weight clamped s w (takePlaced b e weight s) := by
  have hplaced := takePlaced_placed b weight he hst hc
  obtain ⟨w, hw⟩ : ∃ w, w = recompute b (completeIfDone b (leavePick e.tag (takeOutPlaced b e (applyAndHold b e weight s)))) :=
    ⟨_, rfl⟩
  obtain ⟨u, hu, hub, huo, hueq⟩ := updateBuild_spec b Build.settled w
  have hrun : takePlaced b e weight s = offerAll (placedFrames b (s.build b).state (w.build b)) u := by
    have htake : takePlaced b e weight s = settleEnding b (reportChange b (s.build b).state w) := by rw [hw]; rfl
    have hreport : reportChange b (s.build b).state w = offerAll
        (if (w.build b).state = (s.build b).state then [] else [.buildReport (reportOf b (w.build b))]) w := by
      rw [reportChange]
      split_ifs <;> rfl
    rw [htake, hreport, settleEnding_eq, offerAll_build, updateBuild_offerAll, ← hu, placedFrames, offerAll_append]
  rw [← hw] at hplaced
  obtain ⟨t, ht⟩ : ∃ t, t = takePlaced b e weight s := ⟨_, rfl⟩
  rw [← ht] at hrun ⊢
  have hbuild (c : BuildId) : t.build c = u.build c := by rw [hrun, offerAll_build]
  refine ⟨w, hplaced, by rw [hbuild, hub], fun c hcb => by rw [hbuild, huo c hcb, hplaced.other c hcb], ?_, fun hs hroom => ?_⟩
  · have hoffer := offerAll_eq (placedFrames b (s.build b).state (w.build b)) u
    rw [← hrun, hueq] at hoffer
    rw [hoffer]
  · have hlength := placedFrames_length (b := b) (s.build b).state (w.build b)
    have hfew := hplaced.few
    rw [hrun, offerAll_room _ (by rw [hueq, hplaced.eq]; exact hs) (by rw [hueq]; dsimp only; omega), hueq]

/-! ### The build that a placement leaves (R52, R53, R95) -/

section
variable {x : Build}

theorem orderComplete_iff (x : Build) : orderComplete x = true ↔
    ∀ l ∈ x.lines, l.ordered - l.planned - l.placed = 0 ∧ l.planned = 0 := by
  simp [orderComplete, DemandLine.openCount]

theorem Build.overloaded_state (clamped : Bool) (x : Build) :
    (x.overloaded clamped).state = if clamped = true then .held else x.state := by
  rw [Build.overloaded]
  by_cases hc : clamped = true <;> by_cases hheld : x.state = .held <;> simp [hc, hheld, Build.hold]

theorem Build.overloaded_kept (clamped : Bool) (x : Build) : (x.overloaded clamped).ending = x.ending ∧
    (x.overloaded clamped).order = x.order ∧ (x.overloaded clamped).swapDue = x.swapDue := by
  rw [Build.overloaded]
  split_ifs <;> exact ⟨rfl, rfl, rfl⟩

theorem Build.withPlaced_kept (clamped : Bool) (e : PlanEntry) (x : Build) :
    (x.withPlaced clamped e).ending = x.ending ∧ (x.withPlaced clamped e).order = x.order ∧
      (x.withPlaced clamped e).swapDue = x.swapDue := by
  rw [Build.withPlaced]
  split_ifs <;> exact x.overloaded_kept clamped

/-- A build whose ending waits does not complete (R52). -/
theorem Build.withPlaced_waits (clamped : Bool) (e : PlanEntry) (h : x.ending ≠ .noEnding) :
    x.withPlaced clamped e = x.overloaded clamped := by
  have hno : ((x.overloaded clamped).ending == .noEnding) = false := by
    rw [(x.overloaded_kept clamped).1]
    simpa using h
  rw [Build.withPlaced]
  simp only [completes, hno, Bool.and_false, Bool.false_and, Bool.false_eq_true, if_false]

/-- A build in HELD, and one that an OVERLOAD brings there, does not complete (R52, R53). -/
theorem Build.withPlaced_held (clamped : Bool) (e : PlanEntry) (h : x.state = .held ∨ clamped = true) :
    x.withPlaced clamped e = x.overloaded clamped := by
  have hheld : (x.overloaded clamped).state = .held := by
    rw [Build.overloaded_state]
    rcases h with h | h <;> simp [h]
  rw [Build.withPlaced]
  simp [completes, hheld]

/-- A build in OPEN without an ending enters CLOSING where the placement completes its order (R52). -/
theorem Build.withPlaced_open (e : PlanEntry) (hst : x.state = .opened) (hend : x.ending = .noEnding) :
    x.withPlaced false e = if ∀ l ∈ x.lines.modify e.line (fun l => { l with planned := l.planned - 1, placed := l.placed + 1 }),
      l.ordered - l.planned - l.placed = 0 ∧ l.planned = 0 then x.enterClosing else x := by
  have hcompletes : completes { x with lines := x.lines.modify e.line DemandLine.place } = true ↔
      ∀ l ∈ x.lines.modify e.line (fun l => { l with planned := l.planned - 1, placed := l.placed + 1 }),
        l.ordered - l.planned - l.placed = 0 ∧ l.planned = 0 := by
    simp only [completes, hst, hend, beq_self_eq_true, Bool.true_and, orderComplete_iff]
    rfl
  rw [Build.withPlaced]
  simp only [Build.overloaded, Bool.false_eq_true, false_and, if_false, hcompletes]

/-- The scan that is due where a placement has taken the build (R52, R135, R136). -/
theorem Build.withPlaced_due (clamped : Bool) (e : PlanEntry) (hst : x.state = .opened ∨ x.state = .held) :
    ((x.withPlaced clamped e).state = .closing → (x.withPlaced clamped e).scanDue = mergeDue x.scanDue .final) ∧
      ((x.withPlaced clamped e).state = .opened → (x.withPlaced clamped e).scanDue = x.scanDue) ∧
      ((x.withPlaced clamped e).state = .held →
        (x.withPlaced clamped e).scanDue = if x.state = .held then x.scanDue else dueInHeld x.scanDue) := by
  by_cases hheld : x.state = .held ∨ clamped = true
  · have hstate : (x.overloaded clamped).state = .held := by
      rw [Build.overloaded_state]
      rcases hheld with h | h <;> simp [h]
    rw [Build.withPlaced_held clamped e hheld]
    refine ⟨by simp [hstate], by simp [hstate], fun _ => ?_⟩
    rw [Build.overloaded]
    by_cases h : x.state = .held
    · simp [h]
    · simp [h, hheld.resolve_left h, Build.hold]
  · obtain ⟨hno, hc⟩ := not_or.mp hheld
    rw [Bool.not_eq_true] at hc
    have hopen := hst.resolve_right hno
    rw [hc]
    by_cases hend : x.ending = .noEnding
    · rw [Build.withPlaced_open e hopen hend]
      split_ifs
      · exact ⟨fun _ => rfl, nofun, nofun⟩
      · exact ⟨by simp [hopen], fun _ => rfl, by simp [hopen]⟩
    · rw [Build.withPlaced_waits false e hend]
      simp [Build.overloaded, hopen]

/-- A build in OPEN or HELD after the settling has not settled (R57, R60). -/
theorem Build.settled_still (h : x.settled.state = .opened ∨ x.settled.state = .held) : x.settled = x := by
  by_cases hs : x.settles = true
  · cases hend : x.ending with
    | noEnding => exact Build.settled_noEnding hend
    | cancel =>
      rw [Build.settled_cancel hs hend] at h
      split_ifs at h <;> rcases h with h | h <;> cases h
    | release =>
      rw [Build.settled_release hs hend] at h
      rcases h with h | h <;> cases h
  · exact Build.settled_of_not (by simpa using hs)

theorem dueInHeld_rescan (due : Option ScanKind) : dueInHeld due = some .rescan ↔ due = some .rescan := by
  rcases due with _ | k
  · rfl
  · cases k <;> simp [dueInHeld]

theorem dueInHeld_eq (due : Option ScanKind) :
    dueInHeld due = if due = some .step ∨ due = some .final then none else due := by
  rcases due with _ | k
  · rfl
  · cases k <;> rfl

/-- The scan that is due after the settling (R57, R133, R136; log entry 26 for a rescan that is due). -/
theorem Build.settled_due {y : Build} (clamped : Bool) (e : PlanEntry) (hst : x.state = .opened ∨ x.state = .held)
    (hy : y = { x.withPlaced clamped e with built := y.built, planned := y.planned, plan := y.plan, lines := y.lines }) :
    (y.settled.state = .closing →
        y.settled.scanDue = if x.scanDue = some .rescan then some .rescan else some .final) ∧
      (y.settled.state = .opened → y.settled.scanDue = x.scanDue) ∧
      (y.settled.state = .held → y.settled.scanDue = if x.state = .held then x.scanDue else dueInHeld x.scanDue) := by
  obtain ⟨hclosing, hopened, hheld⟩ := Build.withPlaced_due clamped e hst
  have hystate : y.state = (x.withPlaced clamped e).state := by rw [hy]
  have hydue : y.scanDue = (x.withPlaced clamped e).scanDue := by rw [hy]
  have hyending : y.ending = x.ending := by
    rw [hy]
    exact (x.withPlaced_kept clamped e).1
  rw [← hystate, ← hydue] at hclosing hopened hheld
  refine ⟨fun h => ?_, fun h => ?_, fun h => ?_⟩
  · by_cases hs : y.settles = true ∧ x.ending ≠ .noEnding
    · obtain ⟨hs, he⟩ := hs
      have hrescan : y.scanDue = some .rescan ↔ x.scanDue = some .rescan := by
        have hover : y.scanDue = (x.overloaded clamped).scanDue := by rw [hydue, Build.withPlaced_waits clamped e he]
        rw [hover, Build.overloaded]
        split_ifs
        · exact dueInHeld_rescan x.scanDue
        · rfl
      cases hend : x.ending with
      | noEnding => exact absurd hend he
      | cancel =>
        obtain ⟨-, -, hempty, hnot⟩ := Build.settled_cancel_cases hs (hyending.trans hend)
        by_cases h0 : ∀ i : Fin 24, y.built.height[i] = 0
        · rw [(hempty h0).1] at h
          cases h
        · obtain ⟨-, -, -, hdue⟩ := hnot (not_forall.mp h0)
          simp only [hdue, hrescan]
      | release =>
        rw [Build.settled_release hs (hyending.trans hend)] at h
        cases h
    · have hsame : y.settled = y := by
        by_cases h' : y.settles = true
        · exact Build.settled_noEnding (hyending.trans (not_not.mp fun he => hs ⟨h', he⟩))
        · exact Build.settled_of_not (by simpa using h')
      rw [hsame] at h ⊢
      rw [hclosing h, mergeDue_final]
  · have hsame := Build.settled_still (.inl h)
    rw [hsame] at h ⊢
    exact hopened h
  · have hsame := Build.settled_still (.inr h)
    rw [hsame] at h ⊢
    exact hheld h

end

end Sys2Proof.Machine
end

section
/-!
PLACE_DONE PLACED (O49): the placement with its settling, the deviation count, the step scan and the streak.
-/
namespace Sys2Proof.Machine

variable {b : BuildId} {s t u v w : State} {e : PlanEntry} {x y : Build}

/-! ### The step scan (R133) -/

/-- A build for which a step scan falls due where its greatest height has crossed into a new band (R133). -/
def Build.stepped (before step : Nat) (y : Build) : Build :=
  if y.state == .opened && y.ending != .release && stepCrossed step before (greatestHeight y.built)
  then y.makeScanDue .step else y

theorem stepScanTest_eq (b : BuildId) (before : Nat) (s : State) :
    stepScanTest b before s = updateBuild b (Build.stepped before s.own2.verifyStep) s := by
  rw [stepScanTest]
  split_ifs with h
  · have hb : Build.stepped before s.own2.verifyStep (s.build b) = (s.build b).makeScanDue .step := if_pos h
    cases b <;> simp only [updateBuild, State.build] at hb ⊢ <;> rw [hb]
  · exact (updateBuild_same (if_neg h)).symm

/-- The step scan test writes the due scan of a build in OPEN, and nothing else (R133, R135). -/
theorem Build.stepped_kept (before step : Nat) (y : Build) :
    y.stepped before step = { y with scanDue := (y.stepped before step).scanDue } ∧
      (y.state ≠ .opened → y.stepped before step = y) := by
  refine ⟨?_, fun h => ?_⟩
  · rw [Build.stepped]
    split_ifs <;> rfl
  · rw [Build.stepped]
    simp [h]

theorem mergeDue_step (due : Option ScanKind) : mergeDue due .step = if due = none then some .step else due := by
  rcases due with _ | k
  · rfl
  · cases k <;> rfl

theorem Build.stepped_due (before step : Nat) (hst : y.state = .opened) : (y.stepped before step).scanDue =
    if y.scanDue = none ∧ y.ending ≠ .release ∧ 0 < step ∧ before / step < greatestHeight y.built / step
      then some .step else y.scanDue := by
  have hcross : (y.state == .opened && y.ending != .release && stepCrossed step before (greatestHeight y.built)) = true ↔
      y.ending ≠ .release ∧ 0 < step ∧ before / step < greatestHeight y.built / step := by
    simp [hst, stepCrossed]
  rw [Build.stepped]
  by_cases h : y.ending ≠ .release ∧ 0 < step ∧ before / step < greatestHeight y.built / step
  · rw [if_pos (hcross.mpr h), Build.makeScanDue, mergeDue_step]
    simp only [h, and_true, ne_eq, not_false_eq_true]
  · rw [if_neg (fun hc => h (hcross.mp hc)), if_neg fun hc => h hc.2]

/-! ### Clamped tiles (R79, R95) -/

/-- Apply clamps a tile whose margin the share of the weight exceeds (R79, R81). -/
theorem anyClamped_iff (u : Surface) (f : Footprint) (weight : Nat) : anyClamped u f weight = true ↔
    ∃ i : Fin 24, InFootprint f i ∧
      u.margin[i] < (max 1 (min weight 4095) + f.fx * f.fy - 1) / (f.fx * f.fy) := by
  simp only [anyClamped, List.any_eq_true, List.mem_finRange, true_and, clampedAt, Bool.and_eq_true, covers_iff,
    shareOf, applyWeight, Footprint.tiles]
  exact exists_congr fun i => and_congr_right fun _ => decide_eq_true_iff

/-! ### Small facts of a placement -/

/-- Of the counts that a placement moves, the placed count is the one that rises (R48). -/
theorem map_placed_modify_place (l : List DemandLine) (i : Nat) : (l.modify i DemandLine.place).map DemandLine.placed =
    (l.modify i (fun l => { l with placed := l.placed + 1 })).map DemandLine.placed := by
  refine List.ext_getElem? fun n => ?_
  simp only [List.getElem?_map, List.getElem?_modify]
  cases l[n]? with
  | none => rfl
  | some x => by_cases h : i = n <;> simp [h, DemandLine.place]

/-- Recomputed reads of the later build its planned surface and its plan list. -/
theorem Recomputed.congr_later {v : LineSetup} {z : Build} (h : Recomputed v x z) (hplanned : y.planned = z.planned)
    (hplan : y.plan = z.plan) : Recomputed v x y := by
  unfold Recomputed
  rw [hplanned, hplan]
  exact h

/-- A build whose ending waits is in OPEN or HELD behind a placement too, and settles where its plan list is empty (R57,
R60, R95). -/
theorem Build.settles_placed {clamped : Bool} {z : Build} (hstate : x.state = .opened ∨ x.state = .held)
    (hend : x.ending ≠ .noEnding) (hz : z.state = (x.withPlaced clamped e).state) (hplan : z.plan = []) :
    z.settles = true := by
  refine Build.settles_of ?_ hplan
  rw [hz, Build.withPlaced_waits clamped e hend, Build.overloaded_state]
  split_ifs
  · exact .inr rfl
  · exact hstate

/-! ### The outcome PLACED (R93, R94, R115, R125, R133) -/

/-- The outcome PLACED, from s to t: the case stands placed in w, t0 is settled, and the step scan, the deviation count and
the streak are added. -/
theorem outcomePlaced_taken (b : BuildId) (measured : Nat) {weight : Nat} {clamped : Bool} (he : e ∈ (s.build b).plan)
    (hst : e.state = .placing) (hweight : weight = if measured = 0 then e.weight else measured)
    (hc : clamped = anyClamped (s.build b).built e.foot weight) :
    ∃ v w t0 t, TakenPlaced b e weight clamped v w t0 ∧ t = outcomePlaced b e measured s ∧
      v = { s with counters := { s.counters with weightDeviation := v.counters.weightDeviation } } ∧
      v.counters.weightDeviation = (if measured ≠ 0 ∧
          s.own2.weightTol * e.weight < (max measured e.weight - min measured e.weight) * 100
        then min (s.counters.weightDeviation + 1) 255 else s.counters.weightDeviation) ∧
      t.build b = (t0.build b).stepped (greatestHeight (s.build b).built) s.own2.verifyStep ∧
      (∀ c, c ≠ b → t.build c = t0.build c) ∧
      t = { t0 with streak := 0, cycles := 0, buildA := t.buildA, buildB := t.buildB } := by
  obtain ⟨v, hv⟩ : ∃ v, v = if deviates s.own2.weightTol measured e.weight then count .weightDeviation s else s := ⟨_, rfl⟩
  have hdev : deviates s.own2.weightTol measured e.weight = true ↔ measured ≠ 0 ∧
      s.own2.weightTol * e.weight < (max measured e.weight - min measured e.weight) * 100 := by
    simp [deviates]
  have hvs : v = { s with counters := { s.counters with weightDeviation := v.counters.weightDeviation } } := by
    rw [hv]
    split_ifs <;> rfl
  have hvb (c : BuildId) : v.build c = s.build c := by rw [hvs]; exact build_congr rfl rfl c
  obtain ⟨w, hw⟩ := takePlaced_taken (s := v) (clamped := clamped) b weight (by rw [hvb]; exact he) hst (by rw [hvb]; exact hc)
  obtain ⟨t0, ht0⟩ : ∃ t0, t0 = takePlaced b e weight v := ⟨_, rfl⟩
  rw [← ht0] at hw
  have hown : t0.own2 = s.own2 := by rw [hw.eq, hw.placed.eq, hvs]; rfl
  obtain ⟨k, hk, hkb, hko, hkeq⟩ :=
    updateBuild_spec b (Build.stepped (greatestHeight (s.build b).built) t0.own2.verifyStep) t0
  have hrun : outcomePlaced b e measured s = { k with streak := 0, cycles := 0 } := by
    rw [hk, ← stepScanTest_eq, ht0, hv, hweight]
    rfl
  have hbuild (c : BuildId) : State.build { k with streak := 0, cycles := 0 } c = k.build c := build_congr rfl rfl c
  refine ⟨v, w, t0, _, hw, hrun.symm, hvs, ?_, ?_, fun c hcb => ?_, ?_⟩
  · rw [hv]
    simp only [← hdev]
    split_ifs <;> rfl
  · rw [hbuild, hkb, hown]
  · rw [hbuild, hko c hcb]
  · rw [hkeq]

end Sys2Proof.Machine

open Sys2Proof Sys2Proof.Machine

/-- Settles O49: the case stands placed, the ending settles, and the step scan test follows. -/
theorem placedCaseStandsOnThePallet : Obligations.PlacedCaseStandsOnThePallet := by
  rintro s seq p check g tag e weight x clamped hpass hg hk rfl hdiscard htag he hst ho hweight rfl hclamps hstate hrobot
  obtain ⟨f, hf⟩ : ∃ f : State, f = { s with inFlight := none, receiver := .idle } := ⟨_, rfl⟩
  have hfb (c : BuildId) : f.build c = s.build c := by rw [hf]; exact build_congr rfl rfl c
  have het : e.tag = tag := findEntry_tag he
  have hentry : flightEntry g f = some e := flightEntry_eq htag (by rw [findEntry_congr (hfb _)]; exact he) hst
  have hmem : e ∈ (s.build g.build).plan := findEntry_mem he
  obtain ⟨x, hx⟩ : ∃ x, x = s.build g.build := ⟨_, rfl⟩
  rw [← hx] at hclamps hstate hmem ⊢
  have hfx : f.build g.build = x := by rw [hfb, hx]
  obtain ⟨v, w, t0, t, htaken, ht, hv, hdev, htb, hto, hteq⟩ := outcomePlaced_taken (s := f) (clamped := clamped)
    g.build (measuredWeight p) (by rw [hfx]; exact hmem) hst hweight
    (by rw [hfx, Bool.eq_iff_iff, anyClamped_iff]; exact hclamps)
  have hplaced := htaken.placed
  have hvb (c : BuildId) : v.build c = s.build c := by rw [hv, ← hfb]; exact build_congr rfl rfl c
  have hvx : v.build g.build = x := by rw [hvb, hx]
  have hrun : placeDone g.seq p check s = t := by
    have hfree : freePort (receiverIdle s) = f := by rw [hf]; rfl
    rw [placeDone_matched hg hk hpass (o := .placed) (by simp [outcomeOf, ho]), takePlaceDone]
    simp only [hdiscard, Bool.false_eq_true, if_false, hfree, hentry, takeOutcome, ← ht]
    exact runArbiter_robot (by rw [hteq, htaken.eq, hplaced.eq, hv, hf]; exact hrobot)
  obtain ⟨z, hz⟩ : ∃ z, z = w.build g.build := ⟨_, rfl⟩
  obtain ⟨hkept, hclosed⟩ := Build.stepped_kept (greatestHeight x.built) f.own2.verifyStep z.settled
  have hzb := hplaced.build
  obtain ⟨built, hbuilt⟩ : ∃ built, built = x.built.apply e.foot e.h weight e.rating := ⟨_, rfl⟩
  rw [← hz, hvx, ← hbuilt] at hzb
  rw [hfx, htaken.build, ← hz] at htb
  rw [← htb] at hkept hclosed
  have hzstate : z.state = (x.withPlaced clamped e).state := by rw [hzb]
  obtain ⟨hzending, hzorder, hzdue⟩ : z.ending = x.ending ∧ z.order = x.order ∧ z.swapDue = x.swapDue := by
    rw [hzb]
    exact x.withPlaced_kept clamped e
  have hzbuilt : z.built = built := by rw [hzb]
  rw [← hzbuilt] at hzb hbuilt
  obtain ⟨hplankept, hbuiltkept, -, -⟩ := z.settled_kept
  obtain ⟨hdueclosing, hdueopened, hdueheld⟩ := Build.settled_due clamped e hstate hzb
  have hyplan : (t.build g.build).plan = z.plan := by rw [hkept, hplankept]
  have hybuilt : (t.build g.build).built = z.built := by rw [hkept, hbuiltkept]
  obtain ⟨y, hy⟩ : ∃ y, y = t.build g.build := ⟨_, rfl⟩
  rw [← hy] at htb hkept hclosed hyplan hybuilt
  have hbuilds (c : BuildId) : (showBeacons t).build c = t.build c := by rw [showBeacons_build]
  have hystate : y.state = z.settled.state := by rw [hkept]
  have hpick : t.pick = w.pick := by rw [hteq, htaken.eq]
  have hfault : t.fault = w.fault := by rw [hteq, htaken.eq]
  have hsettledsame (h : x.ending = .noEnding ∨ y.plan ≠ []) : z.settled = z := by
    rcases h with h | h
    · exact Build.settled_noEnding (hzending.trans h)
    · exact Build.settled_of_not (Build.not_settles (hyplan ▸ h))
  have hsettles (hend : x.ending ≠ .noEnding) (hnil : y.plan = []) : z.settles = true :=
    Build.settles_placed hstate hend hzstate (hyplan ▸ hnil)
  refine ⟨showBeacons t, y, congrArg done hrun, hy.trans (hbuilds _).symm, ?_, hybuilt.trans hbuilt, ?_, ?_, fun c hc => ?_, ?_,
    fun hcancel => ?_, ?_, fun hcl => ⟨fun hvalid => ?_, fun hopen => ?_⟩, fun hcl => ?_, fun hend hcl hnodup => ?_,
    fun hend => ⟨?_, ?_⟩, fun hend hne => ?_, fun hend hnil => ?_, fun hend hnil => ?_, fun hchanged hs hroom => ?_,
    fun hclosing => ?_, fun hheld hwas => ?_, fun hheld hwas => ?_, fun before after hopen hle hex hle' hex' => ?_, ?_⟩
  · rw [showBeacons_inFlight, hteq, htaken.eq, hplaced.eq, hv, hf]
  · rw [hyplan, hz, ← het]
    exact hplaced.gone
  · rw [showBeacons_pick, hpick, ← het]
    exact hplaced.unpicked
  · rw [hbuilds, hto c hc, htaken.other c hc, hvb]
  · rw [showBeacons_sweep, hteq, htaken.eq]
    exact hplaced.sweep
  · have hlines : z.settled.lines = z.lines := by
      by_cases hs : z.settles = true
      · cases hend : x.ending with
        | noEnding => rw [hsettledsame (.inl hend)]
        | cancel =>
          obtain ⟨-, -, -, hnot⟩ := Build.settled_cancel_cases hs (hzending.trans hend)
          exact (hnot (hybuilt ▸ hcancel hend)).2.2.1
        | release => rw [Build.settled_release hs (hzending.trans hend)]; rfl
      · rw [Build.settled_of_not (by simpa using hs)]
    have hmoved := hplaced.placed
    rw [← hz, hvx] at hmoved
    rw [hkept]
    exact (congrArg (List.map DemandLine.placed) hlines).trans (hmoved.trans (map_placed_modify_place _ _))
  · rw [showBeacons_counters, hteq, htaken.eq, hplaced.eq]
    rw [hf] at hdev
    exact hdev
  · rw [showBeacons_fault, hfault, hplaced.fault, if_pos hcl, recordFault_clear _ _ _ _ (by rw [hv, hf]; exact hvalid), het,
      hv, hf]
  · rw [hyplan, hz]
    exact hplaced.placing hcl (by rw [hvx, hopen]; decide)
  · rw [showBeacons_fault, hfault, hplaced.fault, hcl, hv, hf]
    rfl
  · have hrec := hplaced.recomputed hcl (by rw [hvx]; exact hnodup)
    rw [hvx, ← hz, het, ← hbuilt, ← hybuilt, show v.line = s.line by rw [hv, hf]; rfl] at hrec
    have hsame := hsettledsame (.inl hend)
    exact hrec.congr_later (by rw [hkept, hsame]) hyplan
  · rw [hkept, hsettledsame (.inl hend)]
    exact hzending.trans hend
  · rw [hystate, hsettledsame (.inl hend), hzstate]
    by_cases hheld : x.state = .held ∨ clamped = true
    · rw [if_pos hheld, Build.withPlaced_held clamped e hheld, Build.overloaded_state]
      split_ifs with hcl
      · rfl
      · exact hheld.resolve_right hcl
    · obtain ⟨hno, hcl⟩ := not_or.mp hheld
      rw [if_neg hheld, Bool.eq_false_iff.mpr hcl, Build.withPlaced_open e (hstate.resolve_right hno) hend]
      split_ifs
      · rfl
      · exact hstate.resolve_right hno
  · rw [hkept, hsettledsame (.inr hne)]
    refine ⟨hzending, hzorder, hzdue, ?_⟩
    rw [hzstate, Build.withPlaced_waits clamped e hend, Build.overloaded_state]
  · obtain ⟨hending, horigin, hempty, hnot⟩ :=
      Build.settled_cancel_cases (hsettles (by rw [hend]; decide) hnil) (hzending.trans hend)
    rw [hkept, hbuiltkept]
    refine ⟨hending, horigin, hempty, fun hi => ?_⟩
    obtain ⟨hclosing, horder, -, -⟩ := hnot hi
    exact ⟨hclosing, horder.trans hzorder⟩
  · have hset := hsettles (by rw [hend]; decide) hnil
    rw [hkept, hbuiltkept, Build.settled_release hset (hzending.trans hend)]
    refine ⟨rfl, rfl, rfl, rfl, hzorder, fun hs hroom => ?_⟩
    rw [showBeacons_txQueue, hteq, htaken.queue (by rw [hv, hf]; exact hs) (by rw [hvx, hv, hf]; exact hroom), ← hz,
      placedFrames, settlingFrames_release hset (hzending.trans hend), hzorder]
    simp
  · rw [showBeacons_txQueue, hteq, htaken.queue (by rw [hv, hf]; exact hs) (by rw [hvx, hv, hf]; exact hroom), ← hz, hvx]
    have hreport : reportOf g.build y = reportOf g.build z.settled := by rw [hkept]; rfl
    rw [hreport]
    exact List.mem_append_right _ (List.mem_map_of_mem (report_mem_placedFrames (by rw [← hystate]; exact hchanged)))
  · rw [hclosed (by rw [← hystate, hclosing]; decide)]
    exact hdueclosing (by rw [← hystate]; exact hclosing)
  · rw [hclosed (by rw [← hystate, hheld]; decide), hdueheld (by rw [← hystate]; exact hheld), if_pos hwas]
  · rw [hclosed (by rw [← hystate, hheld]; decide), hdueheld (by rw [← hystate]; exact hheld), if_neg (by rw [hwas]; decide),
      dueInHeld_eq]
  · have hsame := Build.settled_still (x := z) (.inl (hystate ▸ hopen))
    rw [htb, Build.stepped_due _ _ (by rw [← hystate]; exact hopen), hdueopened (by rw [← hystate]; exact hopen),
      greatestHeight_eq hle hex, hsame, hzending, ← hybuilt, greatestHeight_eq hle' hex', show f.own2 = s.own2 by rw [hf]; rfl]
  · rw [hteq, htaken.eq, hplaced.eq, hv, hf]
    rfl
end

section
/-!
The result of a scan (O52): the comparison, the way out of HELD, and the resolution of an uncertain case.
-/
namespace Sys2Proof.Machine

variable {b : BuildId} {r s t u v w : State} {e : PlanEntry} {x y : Build}

/-! ### What a result leaves (R113, R139, R140) -/

/-- A result leaves the other build and the scans in flight, and writes no more than a withdrawal and a fault do. -/
structure KeepsScan (b : BuildId) (s t : State) : Prop where
  scan : (t.build b).scanInFlight = (s.build b).scanInFlight
  other : ∀ c, c ≠ b → t.build c = s.build c
  eq : t = { s with
    txQueue := t.txQueue, positions := t.positions, track := t.track, throttled := t.throttled, sweep := t.sweep,
    pendingSweep := t.pendingSweep, buildA := t.buildA, buildB := t.buildB, pick := t.pick, fault := t.fault,
    counters := t.counters }

theorem KeepsScan.refl (b : BuildId) (s : State) : KeepsScan b s s := ⟨rfl, fun _ _ => rfl, rfl⟩

theorem KeepsScan.trans (h : KeepsScan b s t) (k : KeepsScan b t u) : KeepsScan b s u := by
  refine ⟨k.scan.trans h.scan, fun c hc => (k.other c hc).trans (h.other c hc), ?_⟩
  rw [k.eq, h.eq]

theorem Withdraws.keepsScan (h : Withdraws b s t) : KeepsScan b s t := by
  refine ⟨by rw [h.same], h.other, ?_⟩
  rw [h.fault]
  exact h.eq

theorem updateBuild_keepsScan (g : Build → Build) (hg : (g (s.build b)).scanInFlight = (s.build b).scanInFlight) :
    KeepsScan b s (updateBuild b g s) := by
  refine ⟨by rw [updateBuild_build_same, hg], fun c hc => updateBuild_build_other _ _ _ _ hc, ?_⟩
  rw [updateBuild_eq]

theorem offerAll_keepsScan (l : List TxBody) (s : State) : KeepsScan b s (offerAll l s) := by
  refine ⟨by rw [offerAll_build], fun c _ => by rw [offerAll_build], ?_⟩
  have h := offerAll_eq l s
  obtain ⟨t, ht⟩ : ∃ t, t = offerAll l s := ⟨_, rfl⟩
  rw [← ht] at h ⊢
  rw [h]

theorem recordFault_keepsScan (c : FaultCause) (v : Severity) (d : Option BuildId) (tag : Option Tag) (s : State) :
    KeepsScan b s (recordFault c v d tag s) :=
  ⟨by rw [recordFault_build], fun c _ => by rw [recordFault_build], rfl⟩

theorem settleEnding_keepsScan (b : BuildId) (s : State) : KeepsScan b s (settleEnding b s) := by
  rw [settleEnding_eq]
  exact (updateBuild_keepsScan _ (s.build b).settled_kept.2.2.1).trans (offerAll_keepsScan _ _)

theorem EntersHeld.keepsScan {origin : HoldOrigin} (h : EntersHeld b origin s t) : KeepsScan b s t := by
  refine ⟨by rw [h.same]; rfl, h.other, ?_⟩
  have hfault : t.fault = s.fault := by rw [h.frame]
  rw [hfault]
  exact h.frame

theorem Build.withPlaced_scan (clamped : Bool) (e : PlanEntry) (x : Build) :
    (x.withPlaced clamped e).scanInFlight = x.scanInFlight ∧ (x.withPlaced clamped e).mismatch = x.mismatch := by
  rw [Build.withPlaced, Build.overloaded]
  split_ifs <;> exact ⟨rfl, rfl⟩

theorem TakenPlaced.keepsScan {weight : Nat} {clamped : Bool} (h : TakenPlaced b e weight clamped s w t) : KeepsScan b s t := by
  refine ⟨?_, h.other, ?_⟩
  · rw [h.build, (w.build b).settled_kept.2.2.1, h.placed.build]
    exact ((s.build b).withPlaced_scan clamped e).1
  · rw [h.eq, h.placed.eq]

/-! ### The way out of HELD (R141) -/

theorem Build.leaveHeld_kept (x : Build) : x.leaveHeld = { x with
    state := x.leaveHeld.state, holdOrigin := .noOrigin, scanDue := x.leaveHeld.scanDue } := by
  rw [Build.leaveHeld]
  split_ifs <;> rfl

/-- Where a matching rescan takes a build (R141; log entry 26 for a rescan that is due). -/
theorem Build.leaveHeld_goes (x : Build) :
    if x.holdOrigin = .closing ∨ ∀ l ∈ x.lines, l.ordered - l.planned - l.placed = 0 ∧ l.planned = 0
    then x.leaveHeld.state = .closing ∧
      x.leaveHeld.scanDue = (if x.scanDue = some .rescan then some .rescan else some .final)
    else x.leaveHeld.state = .opened ∧ x.leaveHeld.scanDue = x.scanDue := by
  simp only [Build.leaveHeld, orderComplete_iff]
  split_ifs with h1 h2
  · exact ⟨rfl, by rw [Build.enterClosing, Build.makeScanDue]; simp only [mergeDue_final, h2, if_true]⟩
  · exact ⟨rfl, by rw [Build.enterClosing, Build.makeScanDue]; simp only [mergeDue_final, h2, if_false]⟩
  · exact ⟨rfl, rfl⟩

/-- A matching rescan, from s to t (R141). -/
structure LeavesHeld (b : BuildId) (s t : State) : Prop where
  build : t.build b = (s.build b).leaveHeld
  keeps : KeepsScan b s t
  fault : t.fault = s.fault
  pick : t.pick = s.pick
  counters : t.counters = { s.counters with txDrop := t.counters.txDrop }
  sweep : (t.build b).state = .opened ∨ s.sweep.isSome = true → t.sweep.isSome = true
  held : ∀ f ∈ s.txQueue, f ∈ t.txQueue
  queue : s.station ≠ .silent → s.txQueue.length < 8 →
    t.txQueue = s.txQueue ++ [TxFrame.fresh (.buildReport (reportOf b (t.build b)))]

theorem rescanMatch_leaves (b : BuildId) (s : State) : LeavesHeld b s (rescanMatch b s) := by
  obtain ⟨u, hu, hub, huo, hueq⟩ := updateBuild_spec b Build.leaveHeld s
  obtain ⟨v, hv⟩ : ∃ v, v = if (u.build b).state = .opened then triggerSweep u else u := ⟨_, rfl⟩
  have hrun : rescanMatch b s = offerAll [.buildReport (reportOf b (v.build b))] v := by rw [hv, hu]; rfl
  have hvu : v = { u with sweep := v.sweep, pendingSweep := v.pendingSweep } := by
    rw [hv]
    split_ifs <;> rfl
  have hvb (c : BuildId) : v.build c = u.build c := by rw [hvu]; exact build_congr rfl rfl c
  obtain ⟨t, ht⟩ : ∃ t, t = rescanMatch b s := ⟨_, rfl⟩
  rw [← ht] at hrun ⊢
  have hoffer := offerAll_eq [.buildReport (reportOf b (v.build b))] v
  rw [← hrun] at hoffer
  have htb (c : BuildId) : t.build c = u.build c := by rw [hrun, offerAll_build, hvb]
  refine ⟨by rw [htb, hub], ⟨?_, fun c hc => by rw [htb, huo c hc], ?_⟩, ?_, ?_, ?_, fun hs => ?_, fun f hf => ?_, fun hs hl => ?_⟩
  · rw [htb, hub, Build.leaveHeld_kept]
  · rw [hoffer, hvu, hueq]
  · rw [hoffer, hvu, hueq]
  · rw [hoffer, hvu, hueq]
  · rw [hoffer, hvu, hueq]
  · rw [hoffer]
    dsimp only
    rw [hv]
    split_ifs with hopen
    · rfl
    · rw [hueq]
      exact hs.resolve_left (by rw [htb]; exact hopen)
  · rw [hrun]
    obtain ⟨k, hk, -⟩ := offerAll_txQueue [.buildReport (reportOf b (v.build b))] v
    rw [hk, hvu, hueq]
    exact List.mem_append_left _ hf
  · have hvtx : v.txQueue = s.txQueue := by rw [hvu, hueq]
    rw [htb, ← hvb, hrun, offerAll_room _ (by rw [hvu, hueq]; exact hs) (by rw [hvtx]; exact hl)]
    simp [hvtx]

/-! ### A scan that mismatches (R139, R140, R142) -/

/-- A mismatch of a build in OPEN, CLOSING or HELD, from s to t: the fault, and the build in HELD (R53, R139, R140). -/
structure Mismatched (b : BuildId) (tag : Option Tag) (s t : State) : Prop where
  keeps : KeepsScan b s t
  state : (t.build b).state = .held
  origin : (t.build b).holdOrigin = (if (s.build b).state = .held then (s.build b).holdOrigin
    else if (s.build b).state = .closing then .closing else .noOrigin)
  placing : (s.build b).state ≠ .held → ∀ e ∈ (t.build b).plan, e.state = .placing
  stays : ((s.build b).plan.map PlanEntry.tag).Nodup → ∀ e ∈ (s.build b).plan, e.state = .placing → e ∈ (t.build b).plan
  held : (s.build b).state = .held → (t.build b).plan = (s.build b).plan ∧
    (s.station ≠ .silent → s.txQueue.length < 8 →
      t.txQueue = s.txQueue ++ [TxFrame.fresh (.buildReport (reportOf b (t.build b)))])
  built : (t.build b).built = (s.build b).built
  mismatch : (t.build b).mismatch = (s.build b).mismatch
  fault : s.fault.valid = false →
    t.fault = ⟨true, false, .attn, some .verifyMismatch, some b, tag, s.belt, s.timeBase⟩

theorem scanMismatch_mismatched (tag : Option Tag)
    (hst : (s.build b).state = .opened ∨ (s.build b).state = .closing ∨ (s.build b).state = .held) :
    Mismatched b tag s (scanMismatch b tag s) := by
  obtain ⟨r, hr⟩ : ∃ r, r = recordFault .verifyMismatch .attn (some b) tag s := ⟨_, rfl⟩
  have hkeeps : KeepsScan b s r := hr ▸ recordFault_keepsScan _ _ _ _ s
  have hrb (c : BuildId) : r.build c = s.build c := by rw [hr, recordFault_build]
  have hrfault (hvalid : s.fault.valid = false) :
      r.fault = ⟨true, false, .attn, some .verifyMismatch, some b, tag, s.belt, s.timeBase⟩ := by
    rw [hr]
    exact recordFault_clear _ _ _ _ hvalid
  by_cases hheld : (s.build b).state = .held
  · have hrun : scanMismatch b tag s = offerAll [.buildReport (reportOf b (r.build b))] r := by
      rw [scanMismatch, hr]
      simp only [hheld]
      rfl
    have hoffer := offerAll_eq [.buildReport (reportOf b (r.build b))] r
    obtain ⟨t, ht⟩ : ∃ t, t = scanMismatch b tag s := ⟨_, rfl⟩
    rw [← ht] at hrun ⊢
    rw [← hrun] at hoffer
    have htb : t.build b = s.build b := by rw [hrun, offerAll_build, hrb]
    refine ⟨hkeeps.trans (hrun ▸ offerAll_keepsScan _ _), by rw [htb, hheld], by rw [htb, if_pos hheld],
      fun hno => absurd hheld hno, fun _ e he _ => by rw [htb]; exact he, fun _ => ⟨by rw [htb], fun hs hl => ?_⟩,
      by rw [htb], by rw [htb], fun hvalid => ?_⟩
    · have hrtx : r.txQueue = s.txQueue := by rw [hr]; rfl
      rw [htb, ← hrb, hrun, offerAll_room _ (by rw [hr]; exact hs) (by rw [hrtx]; exact hl)]
      simp [hrtx]
    · rw [hoffer]
      exact hrfault hvalid
  · obtain ⟨origin, horigin, hrun⟩ : ∃ origin, origin = (if (s.build b).state = .closing then .closing else .noOrigin) ∧
        scanMismatch b tag s = enterHeld b origin r := by
      rcases hst with h | h | h
      · exact ⟨_, rfl, by rw [scanMismatch, hr]; simp [h]⟩
      · exact ⟨_, rfl, by rw [scanMismatch, hr]; simp [h]⟩
      · exact absurd h hheld
    have henters := enterHeld_enters (s := r) (b := b) origin (by rw [hrb]; exact hheld)
    obtain ⟨t, ht⟩ : ∃ t, t = scanMismatch b tag s := ⟨_, rfl⟩
    rw [← hrun, ← ht] at henters
    rw [← ht]
    have hsame := henters.same
    rw [hrb] at hsame
    refine ⟨hkeeps.trans henters.keepsScan, by rw [hsame]; rfl, ?_, fun _ e he => (henters.plan e he).2, ?_,
      fun h => absurd h hheld, by rw [hsame]; rfl, by rw [hsame]; rfl, fun hvalid => ?_⟩
    · rw [if_neg hheld, ← horigin, hsame]
      rfl
    · have hstays := henters.stays
      rw [hrb] at hstays
      exact hstays
    · rw [henters.frame]
      exact hrfault hvalid

/-! ### The comparison (R138, R139) -/

theorem allMatch_tile {m : Tiles Bool} (h : allMatch m = true) (i : Fin 24) : m[i] = false := by
  rw [allMatch, List.all_eq_true] at h
  simpa using h _ (Vector.mem_toList_iff.mpr (Vector.getElem_mem i.isLt))

/-- The heights of a SCAN DATA match expected ones within the tolerance on all tiles (R138, R139). -/
theorem allMatch_iff {tol : Nat} {p : List Byte} {expected : Tiles Nat} {height : Fin 24 → Nat}
    (h : ∀ i, height i = expected[i]) : allMatch (mismatches tol expected (measuredHeights p)) = true ↔
      ∀ i : Fin 24, (wordAt p (2 * i.val)).toNat ≤ height i + tol ∧ height i ≤ (wordAt p (2 * i.val)).toNat + tol := by
  rw [allMatch_mismatches]
  simp [h, measuredHeights]

theorem mismatches_iff {tol : Nat} {p : List Byte} {expected : Tiles Nat} {height : Fin 24 → Nat}
    (h : ∀ i, height i = expected[i]) (i : Fin 24) : (mismatches tol expected (measuredHeights p))[i] = true ↔
      ¬ ((wordAt p (2 * i.val)).toNat ≤ height i + tol ∧ height i ≤ (wordAt p (2 * i.val)).toNat + tol) := by
  rw [mismatches_tile, h]
  simp [measuredHeights]

/-- The heights expected with the entry placed (R138). -/
theorem expectedPlaced_tile (x : Build) (e : PlanEntry) (i : Fin 24) : (expectedPlaced x e)[i] =
    if InFootprint e.foot i then baseOver x.built.height e.foot + e.h else x.built.height[i] := by
  simp [expectedPlaced, covers_iff]

/-- The uncertain entry is the first PLACING one with open hypotheses (R85). -/
theorem uncertainEntry_iff (x : Build) (e : PlanEntry) : uncertainEntry x = some e ↔ ∃ older newer,
    x.plan = older ++ e :: newer ∧ e.state = .placing ∧ e.uncertain ≠ none ∧
      ∀ q ∈ older, ¬ (q.state = .placing ∧ q.uncertain ≠ none) := by
  have hkey (q : PlanEntry) : (q.state == .placing && q.uncertain.isSome) = true ↔ q.state = .placing ∧ q.uncertain ≠ none := by
    simp [Option.isSome_iff_ne_none]
  rw [uncertainEntry, List.find?_eq_some_iff_append]
  constructor
  · rintro ⟨he, older, newer, hplan, hold⟩
    obtain ⟨hst, hopen⟩ := (hkey e).mp he
    exact ⟨older, newer, hplan, hst, hopen, fun q hq hno => by simpa [(hkey q).mpr hno] using hold q hq⟩
  · rintro ⟨older, newer, hplan, hst, hopen, hold⟩
    exact ⟨(hkey e).mpr ⟨hst, hopen⟩, older, newer, hplan, fun q hq => by
      rw [Bool.not_eq_true', Bool.eq_false_iff]
      exact mt (hkey q).mp (hold q hq)⟩

/-! ### A resolved case (R96, R140, R141) -/

/-- After a resolution a rescan may take the build out of HELD, which leaves all but its state, origin and due scan. -/
structure Resolves (b : BuildId) (s t : State) : Prop where
  keeps : KeepsScan b s t
  build : t.build b = { s.build b with
    state := (t.build b).state, holdOrigin := (t.build b).holdOrigin, scanDue := (t.build b).scanDue }
  fault : t.fault = s.fault
  pick : t.pick = s.pick
  counters : t.counters = { s.counters with txDrop := t.counters.txDrop }
  sweep : s.sweep.isSome = true → t.sweep.isSome = true
  held : ∀ f ∈ s.txQueue, f ∈ t.txQueue

theorem LeavesHeld.resolves (h : LeavesHeld b s t) : Resolves b s t := by
  refine ⟨h.keeps, ?_, h.fault, h.pick, h.counters, fun hs => h.sweep (.inr hs), h.held⟩
  have hkept := (s.build b).leaveHeld_kept
  rw [← h.build] at hkept
  have horigin : (t.build b).holdOrigin = .noOrigin := by rw [hkept]
  rw [horigin]
  exact hkept

/-- The build x has left HELD in t for CLOSING or OPEN (R141; log entry 26 for a rescan that is due). -/
def LeftHeld (b : BuildId) (x : Build) (t : State) : Prop :=
  (t.build b).holdOrigin = .noOrigin ∧
    if x.holdOrigin = .closing ∨ ∀ l ∈ (t.build b).lines, l.ordered - l.planned - l.placed = 0 ∧ l.planned = 0
    then (t.build b).state = .closing ∧
      (t.build b).scanDue = (if x.scanDue = some .rescan then some .rescan else some .final)
    else (t.build b).state = .opened ∧ (t.build b).scanDue = x.scanDue ∧ t.sweep.isSome = true

/-- The way out of HELD in the terms of the build before (R141; log entry 26 for a rescan that is due). -/
theorem LeavesHeld.goes (h : LeavesHeld b s t) (horigin : (s.build b).holdOrigin = x.holdOrigin)
    (hdue : (s.build b).scanDue = x.scanDue) : LeftHeld b x t := by
  have hgoes := (s.build b).leaveHeld_goes
  have hkept := (s.build b).leaveHeld_kept
  have hlines : (t.build b).lines = (s.build b).lines := by rw [h.build, hkept]
  rw [horigin, hdue, ← hlines, ← h.build] at hgoes
  refine ⟨by rw [h.build, hkept], ?_⟩
  split_ifs at hgoes ⊢ with hcomplete hrescan
  · exact hgoes
  · exact hgoes
  · exact ⟨hgoes.1, hgoes.2, h.sweep (.inl hgoes.1)⟩

/-- A rescan leaves HELD after a resolution of a build without an ending that an OVERLOAD has not held (R140, R141). -/
theorem afterResolution_resolves (b : BuildId) (k : ScanKind) (clamped : Bool) (s : State) :
    Resolves b s (afterResolution b k clamped s) ∧
      ((s.build b).state ≠ .held ∨ clamped = true → afterResolution b k clamped s = s) ∧
      (k = .rescan → (s.build b).state = .held → (s.build b).ending = .noEnding → clamped = false →
        LeavesHeld b s (afterResolution b k clamped s)) := by
  rw [afterResolution]
  split_ifs with h
  · simp only [Bool.and_eq_true, beq_iff_eq, Bool.not_eq_true'] at h
    obtain ⟨⟨⟨-, hheld⟩, -⟩, hclamped⟩ := h
    have hleaves := rescanMatch_leaves b s
    exact ⟨hleaves.resolves, fun hno => by simp [hheld, hclamped] at hno, fun _ _ _ _ => hleaves⟩
  · refine ⟨⟨.refl b s, rfl, rfl, rfl, rfl, id, fun _ h => h⟩, fun _ => rfl, fun hk hheld hend hclamped => ?_⟩
    exact absurd (by simp [hk, hheld, hend, hclamped]) h

theorem Build.settled_mismatch {y : Build} {i : Fin 24} (h : y.mismatch[i] = false) : y.settled.mismatch[i] = false := by
  by_cases hs : y.settles = true
  · cases hend : y.ending with
    | noEnding => rwa [Build.settled_noEnding hend]
    | cancel =>
      rw [Build.settled_cancel hs hend]
      split_ifs
      · simp [Build.cancelEmpty, clearMap]
      · exact h
    | release =>
      rw [Build.settled_release hs hend]
      exact h
  · rwa [Build.settled_of_not (by simpa using hs)]

/-- An uncertain case that the scan shows placed is taken with its announced weight (R96, R140). -/
theorem resolved_placed (b : BuildId) (k : ScanKind) {clamped : Bool} (he : e ∈ (s.build b).plan) (hst : e.state = .placing)
    (hc : clamped = anyClamped (s.build b).built e.foot e.weight) (hx : x = s.build b)
    (hmap : ∀ i : Fin 24, x.mismatch[i] = false)
    (hr : r = afterResolution b k clamped (takePlaced b e e.weight s)) :
    KeepsScan b s r ∧ (r.build b).built = x.built.apply e.foot e.h e.weight e.rating ∧
      (∀ y ∈ (r.build b).plan, y.tag ≠ e.tag) ∧ (∀ q ∈ r.pick, q.tag ≠ e.tag) ∧ r.sweep.isSome = true ∧
      (∀ i : Fin 24, (r.build b).mismatch[i] = false) ∧ r.counters.weightDeviation = s.counters.weightDeviation ∧
      (x.ending = .noEnding → (r.build b).lines.map DemandLine.placed =
        (x.lines.modify e.line (fun l => { l with placed := l.placed + 1 })).map DemandLine.placed) ∧
      (clamped = true → (x.state = .opened → x.ending = .noEnding → (r.build b).state = .held) ∧
        (s.fault.valid = false → r.fault =
          ⟨true, false, .attn, some .overload, some b, some e.tag, s.belt, s.timeBase⟩)) ∧
      (clamped = false → r.fault = s.fault ∧
        (x.state = .opened → x.ending = .noEnding → (r.build b).state =
          if ∀ l ∈ x.lines.modify e.line (fun l => { l with planned := l.planned - 1, placed := l.placed + 1 }),
            l.ordered - l.planned - l.placed = 0 ∧ l.planned = 0
          then .closing else .opened) ∧
        (k = .rescan → x.state = .held → x.ending = .noEnding → LeftHeld b x r)) := by
  obtain ⟨w, htaken⟩ := takePlaced_taken b e.weight he hst hc
  have hplaced := htaken.placed
  obtain ⟨t, ht⟩ : ∃ t, t = takePlaced b e e.weight s := ⟨_, rfl⟩
  obtain ⟨hresolves, hsame, hleaves⟩ := afterResolution_resolves b k clamped t
  rw [← ht] at htaken hr
  rw [← hr] at hresolves hsame hleaves
  have hbuild := hplaced.build
  obtain ⟨built, hbuilt⟩ : ∃ built, built = x.built.apply e.foot e.h e.weight e.rating := ⟨_, rfl⟩
  rw [← hx, ← hbuilt] at hbuild
  have htb := htaken.build
  obtain ⟨z, hz⟩ : ∃ z, z = w.build b := ⟨_, rfl⟩
  rw [← hz] at hbuild htb
  have hzending : z.ending = x.ending := by
    rw [hbuild]
    exact (x.withPlaced_kept clamped e).1
  have hnoEnding (hend : x.ending = .noEnding) : t.build b = z :=
    htb.trans (Build.settled_noEnding (hzending.trans hend))
  have hzstate : z.state = (x.withPlaced clamped e).state := by rw [hbuild]
  have hfault : r.fault = w.fault := by rw [hresolves.fault, htaken.eq]
  refine ⟨htaken.keepsScan.trans hresolves.keeps, ?_, ?_, ?_, hresolves.sweep ?_, fun i => ?_, ?_, fun hend => ?_,
    fun hcl => ⟨fun hopen hend => ?_, fun hvalid => ?_⟩,
    fun hcl => ⟨?_, fun hopen hend => ?_, fun hk hheld hend => ?_⟩⟩
  · rw [hresolves.build]
    refine (congrArg Build.built htb).trans (z.settled_kept.2.1.trans ?_)
    rw [hbuild, hbuilt]
  · rw [hresolves.build, htb, z.settled_kept.1, hz]
    exact hplaced.gone
  · rw [hresolves.pick, htaken.eq]
    exact hplaced.unpicked
  · rw [htaken.eq]
    exact hplaced.sweep
  · rw [hresolves.build, htb]
    refine Build.settled_mismatch ?_
    have hzmap : z.mismatch = x.mismatch := by
      rw [hbuild]
      exact (x.withPlaced_scan clamped e).2
    simp only [hzmap, hmap i]
  · rw [hresolves.counters, htaken.eq, hplaced.eq]
  · have hmoved := hplaced.placed
    rw [← hz, ← hx] at hmoved
    rw [hresolves.build, hnoEnding hend]
    exact hmoved.trans (map_placed_modify_place _ _)
  · rw [hsame (.inr hcl), hnoEnding hend, hzstate, Build.withPlaced_held clamped e (.inr hcl), Build.overloaded_state,
      if_pos hcl]
  · rw [hfault, hplaced.fault, if_pos hcl, recordFault_clear _ _ _ _ hvalid]
  · rw [hfault, hplaced.fault, hcl]
    rfl
  · have hstate : (t.build b).state =
        if ∀ l ∈ x.lines.modify e.line (fun l => { l with planned := l.planned - 1, placed := l.placed + 1 }),
          l.ordered - l.planned - l.placed = 0 ∧ l.planned = 0 then .closing else .opened := by
      rw [hnoEnding hend, hzstate, hcl, Build.withPlaced_open e hopen hend]
      split_ifs
      · rfl
      · exact hopen
    have hno : (t.build b).state ≠ .held := by
      rw [hstate]
      split_ifs <;> decide
    rw [hsame (.inl hno), hstate]
  · have hkept : x.withPlaced clamped e = x := by
      rw [Build.withPlaced_held clamped e (.inl hheld), Build.overloaded]
      simp [hcl]
    have htheld : (t.build b).state = .held ∧ (t.build b).holdOrigin = x.holdOrigin ∧ (t.build b).scanDue = x.scanDue := by
      rw [hnoEnding hend, hbuild, hkept]
      exact ⟨hheld, rfl, rfl⟩
    obtain ⟨hstate, horigin, hdue⟩ := htheld
    exact (hleaves hk hstate (by rw [hnoEnding hend, hzending, hend]) hcl).goes horigin hdue

/-- An uncertain case that the scan shows not placed is withdrawn with MISS NOT PICKED (R140). -/
theorem resolved_notPlaced (b : BuildId) (k : ScanKind) (hst : e.state = .placing) (hx : x = s.build b)
    (hmap : ∀ i : Fin 24, x.mismatch[i] = false)
    (hr : r = afterResolution b k false (settleEnding b (withdrawAlone b .notPicked e s))) :
    KeepsScan b s r ∧ (r.build b).built = x.built ∧ (∀ y ∈ (r.build b).plan, y.tag ≠ e.tag) ∧
      (∀ q ∈ r.pick, q.tag ≠ e.tag) ∧ r.sweep.isSome = true ∧ r.fault = s.fault ∧
      (∀ i : Fin 24, (r.build b).mismatch[i] = false) ∧
      (s.station ≠ .silent → s.txQueue.length < 8 → TxFrame.fresh (.miss e.tag .notPicked) ∈ r.txQueue) ∧
      (x.state = .opened → x.ending = .noEnding → (r.build b).state = .opened) ∧
      (k = .rescan → x.state = .held → x.ending = .noEnding → LeftHeld b x r) := by
  have hw : Withdraws b s (withdrawAlone b .notPicked e s) := withdrawAlone_withdraws .notPicked e
  obtain ⟨hgone, hsweep, hmiss⟩ := withdrawAlone_placed (b := b) (s := s) (e := e) .notPicked (by simp [hst])
  have hplan := withdrawAlone_not_planned (b := b) (s := s) (e := e) .notPicked
  obtain ⟨w, hwdef⟩ : ∃ w, w = withdrawAlone b .notPicked e s := ⟨_, rfl⟩
  rw [← hwdef] at hw hgone hsweep hmiss hplan hr
  obtain ⟨hsplan, hspick, hsframes⟩ := settleEnding_lists b w
  have hskeeps := settleEnding_keepsScan b w
  have hsb := settleEnding_build b w
  have hsettled := hw.settled_eq
  have hskept := settleEnding_kept b w
  have hnone := fun hend => settleEnding_none (b := b) (s := w) hend
  obtain ⟨t, ht⟩ : ∃ t, t = settleEnding b w := ⟨_, rfl⟩
  rw [← ht] at hr hsplan hspick hsframes hskeeps hsb hsettled hskept hnone
  obtain ⟨hresolves, hsame, hleaves⟩ := afterResolution_resolves b k false t
  rw [← hr] at hresolves hsame hleaves
  have hwb := hw.same
  rw [← hx] at hwb
  have hnoEnding (hend : x.ending = .noEnding) : t = w := hnone (by rw [hwb]; exact hend)
  refine ⟨(hw.keepsScan.trans hskeeps).trans hresolves.keeps, ?_, ?_, ?_, hresolves.sweep ?_, ?_, fun i => ?_,
    fun hs hl => hresolves.held _ (hsframes _ (hmiss hs hl)), fun hopen hend => ?_, fun hk hheld hend => ?_⟩
  · rw [hresolves.build]
    exact (congrArg Build.built hsb).trans ((w.build b).settled_kept.2.1.trans (by rw [hwb]))
  · rw [hresolves.build, hsplan]
    exact hplan
  · rw [hresolves.pick, hspick]
    exact hgone
  · rw [hskept]
    exact hsweep
  · rw [hresolves.fault, hsettled]
  · rw [hresolves.build, hsb]
    refine Build.settled_mismatch ?_
    rw [hwb]
    exact hmap i
  · have hstate : (t.build b).state = .opened := by rw [hnoEnding hend, hwb, hopen]
    rw [hsame (.inl (by rw [hstate]; decide)), hstate]
  · have htb : t.build b = { x with planned := (t.build b).planned, plan := (t.build b).plan, lines := (t.build b).lines } := by
      rw [hnoEnding hend]
      exact hwb
    exact (hleaves hk (by rw [htb]; exact hheld) (by rw [htb]; exact hend) rfl).goes (by rw [htb]) (by rw [htb])

end Sys2Proof.Machine
end

section
/-!
SCAN_DATA (O52): the plain and the uncertain result, and what is left when the scan has ended.
-/
namespace Sys2Proof.Machine

variable {b : BuildId} {k : ScanKind} {r s t u v w : State} {e : PlanEntry} {x y : Build} {m measured : Tiles Nat}

/-! ### Plain results (R139, R142, R146) -/

theorem setMap_spec (b : BuildId) (map : Tiles Bool) (s : State) : ∃ u, u = setMap b map s ∧ KeepsScan b s u ∧
    u.build b = { s.build b with mismatch := map } ∧ u = { s with buildA := u.buildA, buildB := u.buildB } := by
  obtain ⟨u, hu, hub, -, hueq⟩ := updateBuild_spec b (fun x => { x with mismatch := map }) s
  exact ⟨u, hu, hu ▸ updateBuild_keepsScan _ rfl, hub, hueq⟩

/-- A matching final scan offers PALLET DONE and the report of a build that a swap takes away (R146, R147). -/
theorem finalMatch_eq (b : BuildId) (s : State) : ∃ u, u.build b = { s.build b with state := .swapping, swapDue := true } ∧
    u = { s with buildA := u.buildA, buildB := u.buildB } ∧ KeepsScan b s u ∧
    finalMatch b s = offerAll [.palletDone b (((s.build b).order.map OrderHeader.ref).getD 0) (s.build b).built.cases
      (s.build b).built.weight true, .buildReport (reportOf b (u.build b))] u := by
  obtain ⟨u, hu, hub, -, hueq⟩ := updateBuild_spec b (fun x => { x with state := .swapping, swapDue := true }) s
  refine ⟨u, hub, hueq, hu ▸ updateBuild_keepsScan _ rfl, ?_⟩
  rw [finalMatch, palletDone, updateBuild_offer, ← hu, reportBuild, offer_build, offerAll_cons, offerAll_cons, offerAll_nil]

theorem finalMatch_keepsScan (b : BuildId) (s : State) : KeepsScan b s (finalMatch b s) := by
  obtain ⟨u, -, -, hkeeps, hrun⟩ := finalMatch_eq b s
  rw [hrun]
  exact hkeeps.trans (offerAll_keepsScan _ _)

theorem finalMatch_room (hs : s.station ≠ .silent) (hl : s.txQueue.length ≤ 6) :
    (finalMatch b s).build b = { s.build b with state := .swapping, swapDue := true } ∧
      (finalMatch b s).txQueue = s.txQueue ++
        [TxFrame.fresh (.palletDone b (((s.build b).order.map OrderHeader.ref).getD 0) (s.build b).built.cases
          (s.build b).built.weight true), TxFrame.fresh (.buildReport (reportOf b ((finalMatch b s).build b)))] := by
  obtain ⟨u, hub, hueq, -, hrun⟩ := finalMatch_eq b s
  have hutx : u.txQueue = s.txQueue := by rw [hueq]
  have hbuild : (finalMatch b s).build b = u.build b := by rw [hrun, offerAll_build]
  refine ⟨hbuild.trans hub, ?_⟩
  rw [hbuild, hrun, offerAll_room _ (by rw [hueq]; exact hs) (by rw [hutx]; exact Nat.add_le_add_right hl 2)]
  simp [hutx]

theorem scanMismatch_keepsScan (b : BuildId) (tag : Option Tag) (s : State) : KeepsScan b s (scanMismatch b tag s) := by
  by_cases hst : (s.build b).state = .opened ∨ (s.build b).state = .closing ∨ (s.build b).state = .held
  · exact (scanMismatch_mismatched tag hst).keeps
  · have hrun : scanMismatch b tag s = recordFault .verifyMismatch .attn (some b) tag s := by
      rw [scanMismatch]
      cases h : (s.build b).state <;> simp [h] at hst ⊢
    rw [hrun]
    exact recordFault_keepsScan _ _ _ _ s

/-- The plain comparison by its outcome (R139, R141, R142, R146). -/
theorem plainResult_match (b : BuildId) (k : ScanKind) (hmap : allMatch (mismatches s.line.verifyTol (s.build b).built.height m) = true)
    (hst : (s.build b).state ≠ .empty ∧ (s.build b).state ≠ .swapping)
    (hu : u = setMap b (mismatches s.line.verifyTol (s.build b).built.height m) s) : plainResult b k m s =
      if k = .final ∧ (s.build b).state = .closing then finalMatch b u
      else if k = .rescan ∧ (s.build b).state = .held ∧ (s.build b).ending = .noEnding then rescanMatch b u else u := by
  obtain ⟨he, hw⟩ := hst
  simp [plainResult, hmap, he, hw, ← hu, and_assoc]

theorem plainResult_mismatch (b : BuildId) (k : ScanKind)
    (hmap : ¬ allMatch (mismatches s.line.verifyTol (s.build b).built.height m) = true)
    (hst : (s.build b).state ≠ .empty ∧ (s.build b).state ≠ .swapping)
    (hu : u = setMap b (mismatches s.line.verifyTol (s.build b).built.height m) s) :
    plainResult b k m s = scanMismatch b none u := by
  obtain ⟨he, hw⟩ := hst
  simp [plainResult, hmap, he, hw, ← hu]

theorem plainResult_keepsScan (b : BuildId) (k : ScanKind) (m : Tiles Nat) (s : State) : KeepsScan b s (plainResult b k m s) := by
  by_cases hst : (s.build b).state ≠ .empty ∧ (s.build b).state ≠ .swapping
  · obtain ⟨u, hu, hkeeps, -, -⟩ := setMap_spec b (mismatches s.line.verifyTol (s.build b).built.height m) s
    by_cases hmap : allMatch (mismatches s.line.verifyTol (s.build b).built.height m) = true
    · rw [plainResult_match b k hmap hst hu]
      split_ifs
      · exact hkeeps.trans (finalMatch_keepsScan b u)
      · exact hkeeps.trans (rescanMatch_leaves b u).keeps
      · exact hkeeps
    · rw [plainResult_mismatch b k hmap hst hu]
      exact hkeeps.trans (scanMismatch_keepsScan b none u)
  · have hno : ((s.build b).state == .empty || (s.build b).state == .swapping) = true := by
      rcases not_and_or.mp hst with h | h <;> simp [not_not.mp h]
    rw [plainResult]
    simp only [hno, if_true]
    exact .refl b s

/-! ### Uncertain results (R96, R140, R142) -/

/-- The three results of an uncertain scan (R96, R140). -/
theorem uncertainResult_placed (b : BuildId) (k : ScanKind) (hopen : e.uncertain = some .placedOrNot)
    (hmap : allMatch (mismatches s.line.verifyTol (expectedPlaced (s.build b) e) m) = true) :
    uncertainResult b k e m s = afterResolution b k (anyClamped (s.build b).built e.foot e.weight)
      (takePlaced b e e.weight (setMap b (mismatches s.line.verifyTol (expectedPlaced (s.build b) e) m) s)) :=
  if_pos ⟨hopen, hmap⟩

theorem uncertainResult_notPlaced (b : BuildId) (k : ScanKind) (hno : ¬ (e.uncertain = some .placedOrNot ∧
      allMatch (mismatches s.line.verifyTol (expectedPlaced (s.build b) e) m) = true))
    (hmap : allMatch (mismatches s.line.verifyTol (s.build b).built.height m) = true) :
    uncertainResult b k e m s = afterResolution b k false (settleEnding b (withdrawAlone b .notPicked e
      (setMap b (mismatches s.line.verifyTol (s.build b).built.height m) s))) :=
  (if_neg hno).trans (if_pos hmap)

theorem uncertainResult_neither (b : BuildId) (k : ScanKind) (hno : ¬ (e.uncertain = some .placedOrNot ∧
      allMatch (mismatches s.line.verifyTol (expectedPlaced (s.build b) e) m) = true))
    (hmap : ¬ allMatch (mismatches s.line.verifyTol (s.build b).built.height m) = true) :
    uncertainResult b k e m s = scanMismatch b (some e.tag) (setMap b (mismatches s.line.verifyTol
      (if e.uncertain = some .placedOrNot then expectedPlaced (s.build b) e else (s.build b).built.height) m) s) := by
  refine ((if_neg hno).trans (if_neg hmap)).trans ?_
  split_ifs <;> rfl

theorem uncertainResult_keepsScan (b : BuildId) (k : ScanKind) (m : Tiles Nat) (he : e ∈ (s.build b).plan)
    (hst : e.state = .placing) : KeepsScan b s (uncertainResult b k e m s) := by
  have hset (map : Tiles Bool) : KeepsScan b s (setMap b map s) := updateBuild_keepsScan _ rfl
  have hmem (map : Tiles Bool) : e ∈ ((setMap b map s).build b).plan := by
    rw [setMap, updateBuild_build_same]
    exact he
  by_cases hplaced : e.uncertain = some .placedOrNot ∧
      allMatch (mismatches s.line.verifyTol (expectedPlaced (s.build b) e) m) = true
  · obtain ⟨w, hw⟩ := takePlaced_taken b e.weight
      (hmem (mismatches s.line.verifyTol (expectedPlaced (s.build b) e) m)) hst rfl
    rw [uncertainResult_placed b k hplaced.1 hplaced.2]
    exact ((hset _).trans hw.keepsScan).trans (afterResolution_resolves _ _ _ _).1.keeps
  by_cases hmap : allMatch (mismatches s.line.verifyTol (s.build b).built.height m) = true
  · rw [uncertainResult_notPlaced b k hplaced hmap]
    exact (((hset _).trans (withdrawAlone_withdraws .notPicked e).keepsScan).trans (settleEnding_keepsScan b _)).trans
      (afterResolution_resolves _ _ _ _).1.keeps
  · rw [uncertainResult_neither b k hplaced hmap]
    exact (hset _).trans (scanMismatch_keepsScan b _ _)

/-! ### The end of a scan (R113, R120; log entry 27) -/

theorem uncertainEntry_mem (h : uncertainEntry x = some e) : e ∈ x.plan ∧ e.state = .placing := by
  obtain ⟨older, newer, hplan, hst, -, -⟩ := (uncertainEntry_iff x e).mp h
  exact ⟨by simp [hplan], hst⟩

theorem scanResult_plain {fl : ScanFlight} (hrelease : fl.release = false)
    (h : fl.uncertain = false ∨ uncertainEntry (s.build b) = none) :
    scanResult b fl measured s = plainResult b fl.kind measured s := by
  rcases h with h | h <;> simp [scanResult, hrelease, h]

theorem scanResult_uncertain {fl : ScanFlight} (hrelease : fl.release = false) (h : fl.uncertain = true)
    (he : uncertainEntry (s.build b) = some e) :
    scanResult b fl measured s = uncertainResult b fl.kind e measured s := by
  simp [scanResult, hrelease, h, he]

theorem scanResult_keepsScan {fl : ScanFlight} (hrelease : fl.release = false) :
    KeepsScan b s (scanResult b fl measured s) := by
  cases he : uncertainEntry (s.build b) with
  | none => rw [scanResult_plain hrelease (.inr he)]; exact plainResult_keepsScan b _ _ s
  | some e =>
    by_cases h : fl.uncertain = true
    · obtain ⟨hmem, hst⟩ := uncertainEntry_mem he
      rw [scanResult_uncertain hrelease h he]
      exact uncertainResult_keepsScan b _ _ hmem hst
    · rw [scanResult_plain hrelease (.inl (by simpa using h))]
      exact plainResult_keepsScan b _ _ s

/-- SCAN DATA for a scan without marks: the scan is in flight no more in v, its result is r, and t may sweep (R113, R120;
log entry 27). -/
theorem scanData_result {g : InFlight} {fl : ScanFlight} {p : List Byte} {check : Byte}
    (hpass : recordPasses 0x82 g.seq p check = true) (hg : s.inFlight = some g) (hk : g.kind = .scan)
    (hdiscard : g.discard = false) (hfl : (s.build g.build).scanInFlight = some fl) (hrelease : fl.release = false)
    (hrobot : s.robotReady = false) : ∃ v r t, scanData g.seq p check s = t ∧
      v.build g.build = { s.build g.build with scanInFlight := none } ∧ (∀ c, c ≠ g.build → v.build c = s.build c) ∧
      v = { s with inFlight := none, receiver := .idle, buildA := v.buildA, buildB := v.buildB } ∧
      r = scanResult g.build fl (measuredHeights p) v ∧ KeepsScan g.build v r ∧
      t = { r with sweep := t.sweep, pendingSweep := t.pendingSweep } ∧
      (r.sweep.isSome = true → t.sweep.isSome = true) ∧
      ((s.build g.build).state = .opened → (r.build g.build).state = .opened → t.sweep.isSome = true) := by
  obtain ⟨f, hf⟩ : ∃ f : State, f = { s with inFlight := none, receiver := .idle } := ⟨_, rfl⟩
  have hfb (c : BuildId) : f.build c = s.build c := by rw [hf]; exact build_congr rfl rfl c
  obtain ⟨v, hv, hvb, hvo, hveq⟩ := updateBuild_spec g.build (fun x => { x with scanInFlight := none }) f
  obtain ⟨r, hr⟩ : ∃ r, r = scanResult g.build fl (measuredHeights p) v := ⟨_, rfl⟩
  have hkeeps : KeepsScan g.build v r := hr ▸ scanResult_keepsScan hrelease
  have hrun : scanData g.seq p check s = sweepIfStillOpen g.build (s.build g.build).state r := by
    have hflight : ((receiverIdle s).build g.build).scanInFlight = some fl := by rw [← hfl]; exact congrArg _ (build_congr rfl rfl _)
    have hstate : ((receiverIdle s).build g.build).state = (s.build g.build).state := congrArg _ (build_congr rfl rfl _)
    have hend : endScanFlight g.build (freePort (receiverIdle s)) = v := by rw [hv, hf]; rfl
    rw [scanData_matched hg hk hpass, takeScanData]
    simp only [hdiscard, Bool.false_eq_true, if_false, hflight, hstate, hend, ← hr]
    refine runArbiter_robot ?_
    rw [sweepIfStillOpen]
    split_ifs <;> · rw [hkeeps.eq, hveq, hf]; exact hrobot
  refine ⟨v, r, _, hrun, by rw [hvb, hfb], fun c hc => by rw [hvo c hc, hfb], by rw [hveq, hf], hr, hkeeps, ?_, fun hs => ?_,
    fun h1 h2 => ?_⟩
  · rw [sweepIfStillOpen]
    split_ifs <;> rfl
  · rw [sweepIfStillOpen]
    split_ifs
    · rfl
    · exact hs
  · rw [sweepIfStillOpen, if_pos ⟨h1, h2⟩]
    rfl

/-- The build and the queue of a sweep that may follow are those of the result. -/
theorem build_of_sweep (h : t = { r with sweep := t.sweep, pendingSweep := t.pendingSweep }) (c : BuildId) :
    (showBeacons t).build c = r.build c := by
  rw [showBeacons_build, h]
  exact build_congr rfl rfl c

theorem LeftHeld.swept (hl : LeftHeld b x r) (h : t = { r with sweep := t.sweep, pendingSweep := t.pendingSweep })
    (hs : r.sweep.isSome = true → t.sweep.isSome = true) : LeftHeld b x (showBeacons t) := by
  rw [LeftHeld, build_of_sweep h]
  obtain ⟨horigin, hgoes⟩ := hl
  refine ⟨horigin, ?_⟩
  split_ifs at hgoes ⊢
  · exact hgoes
  · exact hgoes
  · exact ⟨hgoes.1, hgoes.2.1, hs hgoes.2.2⟩

end Sys2Proof.Machine

open Sys2Proof Sys2Proof.Machine

/-- Settles O52: the comparison of a plain scan, and the three results of an uncertain one. -/
theorem scanDataIsCompared : Obligations.ScanDataIsCompared := by
  refine ⟨uncertainEntry_iff, ?_⟩
  rintro s seq p check g fl x matchesAll built leavesHeld hpass hg hk rfl hdiscard hx hfl hrelease hrobot hmatches hbuilt hleaves
  rw [hx] at hfl
  obtain ⟨v, r, t, hrun, hvb, hvo, hveq, hr, hkeeps, hteq, hsweep, hopened⟩ :=
    scanData_result hpass hg hk hdiscard hfl hrelease hrobot
  rw [← hx] at hvb hopened
  have htb := build_of_sweep hteq
  have htx : (showBeacons t).txQueue = r.txQueue := by rw [showBeacons_txQueue, hteq]
  have hfault : (showBeacons t).fault = r.fault := by rw [showBeacons_fault, hteq]
  have hvx : (v.build g.build).state = x.state ∧ (v.build g.build).built = x.built ∧ (v.build g.build).plan = x.plan := by
    rw [hvb]
    exact ⟨rfl, rfl, rfl⟩
  obtain ⟨hvstate, hvbuilt, hvplan⟩ := hvx
  have hvtx : v.txQueue = s.txQueue := by rw [hveq]
  have hvstation : v.station = s.station := by rw [hveq]
  have hvfault : v.fault = s.fault := by rw [hveq]
  have hvline : v.line = s.line := by rw [hveq]; rfl
  have hall : allMatch (mismatches v.line.verifyTol (v.build g.build).built.height (measuredHeights p)) = true ↔
      matchesAll built := by
    rw [hmatches, hvline, hvbuilt]
    exact allMatch_iff hbuilt
  have hswept (h : LeftHeld g.build x r) : leavesHeld (showBeacons t) := (hleaves _).mpr (h.swept hteq hsweep)
  refine ⟨showBeacons t, congrArg done hrun, ?_, fun c hc => ?_, ?_, fun hplain => ⟨fun hmatch => ?_, fun hno hst => ?_⟩,
    fun huncertain e placed expected clamped he hclamped hplaced hexpected => ?_⟩
  · rw [htb, hkeeps.scan, hvb]
  · rw [htb, hkeeps.other c hc, hvo c hc]
  · rw [hteq, hkeeps.eq, hveq]
    rfl
  · obtain ⟨u, hu, -, hub, hueq⟩ :=
      setMap_spec g.build (mismatches v.line.verifyTol (v.build g.build).built.height (measuredHeights p)) v
    have hres (hst : x.state ≠ .empty ∧ x.state ≠ .swapping) := plainResult_match g.build fl.kind (hall.mpr hmatch)
      (by rw [hvstate]; exact hst) hu
    rw [← scanResult_plain (fl := fl) hrelease (.inl hplain), ← hr, hvstate] at hres
    have hutx : u.txQueue = s.txQueue := by rw [hueq, hvtx]
    have hufault : u.fault = s.fault := by rw [hueq, hvfault]
    have hustation : u.station = s.station := by rw [hueq, hvstation]
    rw [hvb] at hub
    refine ⟨fun hkind hst hs hl => ?_, fun hkind hst => ?_, fun hkind hst hend => ?_⟩
    · have hrfinal := hres (by simp [hst])
      rw [if_pos ⟨hkind, hst⟩] at hrfinal
      obtain ⟨hbuild, hqueue⟩ := finalMatch_room (b := g.build) (s := u) (by rw [hustation]; exact hs) (by rw [hutx]; exact hl)
      rw [← hrfinal, hub] at hbuild hqueue
      rw [htb, htx, hqueue, hutx]
      exact ⟨by rw [hbuild], by rw [hbuild], rfl⟩
    · have hru := hres (by simp [hst])
      rw [if_neg (by simp [hst]), if_neg (by simp [hst])] at hru
      have hstate : (r.build g.build).state = .opened := by rw [hru, hub, hst]
      rw [htb, htx, hfault, hru]
      exact ⟨by rw [← hru, hstate], hopened hst hstate, hutx, hufault⟩
    · have hrl := hres (by simp [hst])
      rw [if_neg (by simp [hst]), if_pos ⟨hkind, hst, by rw [hvb]; exact hend⟩] at hrl
      have hl := rescanMatch_leaves g.build u
      rw [← hrl] at hl
      have hkept := (u.build g.build).leaveHeld_kept
      rw [← hl.build, hub] at hkept
      rw [htb, htx, hfault, hl.fault, hufault]
      refine ⟨hswept (hl.goes (by rw [hub]) (by rw [hub])), rfl, by rw [hkept], by rw [hkept], fun hs hlen => ?_⟩
      rw [hl.queue (by rw [hustation]; exact hs) (by rw [hutx]; exact hlen), hutx]
  · obtain ⟨u, hu, -, hub, hueq⟩ :=
      setMap_spec g.build (mismatches v.line.verifyTol (v.build g.build).built.height (measuredHeights p)) v
    have hrm := plainResult_mismatch g.build fl.kind (mt hall.mp hno)
      (by rw [hvstate]; rcases hst with h | h | h <;> simp [h]) hu
    rw [← scanResult_plain (fl := fl) hrelease (.inl hplain), ← hr] at hrm
    have hustate : (u.build g.build).state = x.state := by rw [hub, hvb]
    have hm := scanMismatch_mismatched none (s := u) (b := g.build) (by rw [hustate]; exact hst)
    rw [← hrm] at hm
    have hutx : u.txQueue = s.txQueue := by rw [hueq, hvtx]
    rw [htb, htx, hfault]
    refine ⟨hm.state, ?_, fun h => hm.placing (by rw [hustate]; exact h), fun h => ?_, ?_, fun i => ?_, fun hvalid => ?_⟩
    · rw [hm.origin, hub, hvb]
    · obtain ⟨hplan, hqueue⟩ := hm.held (hustate.trans h)
      refine ⟨by rw [hplan, hub, hvb], fun hs hl => ?_⟩
      rw [hqueue (by rw [hueq, hvstation]; exact hs) (by rw [hutx]; exact hl), hutx]
    · rw [hm.built, hub, hvb]
    · rw [hm.mismatch, hub, hvline, hvbuilt]
      exact mismatches_iff (height := fun i => x.built.height[i]) (fun _ => rfl) i
    · rw [hm.fault (by rw [hueq, hvfault]; exact hvalid), hueq, hveq]
  · obtain ⟨hmem, hest⟩ := uncertainEntry_mem he
    have hru := scanResult_uncertain (s := v) (b := g.build) (measured := measuredHeights p) hrelease huncertain
      (by rw [hvb]; exact he)
    rw [← hr] at hru
    have htile (i : Fin 24) : placed i = (expectedPlaced (v.build g.build) e)[i] := by
      rw [expectedPlaced_tile, hvbuilt]
      exact hplaced i
    have hallplaced : allMatch (mismatches v.line.verifyTol (expectedPlaced (v.build g.build) e) (measuredHeights p)) = true ↔
        matchesAll placed := by
      rw [hmatches, hvline]
      exact allMatch_iff htile
    have hneither (h : e.uncertain = some .placedOrNot → ¬ matchesAll placed) : ¬ (e.uncertain = some .placedOrNot ∧
        allMatch (mismatches v.line.verifyTol (expectedPlaced (v.build g.build) e) (measuredHeights p)) = true) :=
      fun hboth => h hboth.1 (hallplaced.mp hboth.2)
    have hpick : (showBeacons t).pick = r.pick := by rw [showBeacons_pick, hteq]
    have hcounters : (showBeacons t).counters = r.counters := by rw [showBeacons_counters, hteq]
    rw [htb, htx, hfault, hpick, hcounters]
    refine ⟨fun hopen hmatch => ?_, fun hno hmatch => ?_, fun hno hnot hst => ?_⟩
    · have hmapped := hallplaced.mpr hmatch
      rw [uncertainResult_placed g.build fl.kind hopen hmapped] at hru
      obtain ⟨m, hm⟩ : ∃ m, m = mismatches v.line.verifyTol (expectedPlaced (v.build g.build) e) (measuredHeights p) := ⟨_, rfl⟩
      obtain ⟨u, hu, -, hub, hueq⟩ := setMap_spec g.build m v
      rw [← hm] at hmapped hru
      rw [← hu] at hru
      have hubuilt : (u.build g.build).built = x.built := by rw [hub, hvb]
      have hclamp : clamped = anyClamped x.built e.foot e.weight := by
        rw [Bool.eq_iff_iff, anyClamped_iff]
        exact hclamped
      obtain ⟨-, hbuilt', hplan, hunpicked, hrsweep, hmap, hdev, hlines, hclamps, hfree⟩ := resolved_placed (s := u)
        (r := r) (x := u.build g.build) (clamped := clamped) g.build fl.kind (by rw [hub, hvb]; exact hmem) hest
        (by rw [hubuilt]; exact hclamp) rfl
        (fun i => by rw [hub]; exact allMatch_tile hmapped i) (by rw [hru, hvbuilt, hclamp])
      rw [hubuilt] at hbuilt'
      rw [hub, hvb] at hlines hclamps hfree
      rw [hueq, hveq] at hdev hclamps hfree
      refine ⟨hbuilt', hplan, hunpicked, hsweep hrsweep, hmap, hdev, hlines, hclamps, fun hcl => ?_⟩
      obtain ⟨hkeptfault, hstate, hrescan⟩ := hfree hcl
      exact ⟨hkeptfault, hstate, fun hk hst hend => hswept (hrescan hk hst hend)⟩
    · have hmapped := hall.mpr hmatch
      rw [uncertainResult_notPlaced g.build fl.kind (hneither hno) hmapped] at hru
      obtain ⟨m, hm⟩ : ∃ m, m = mismatches v.line.verifyTol (v.build g.build).built.height (measuredHeights p) := ⟨_, rfl⟩
      obtain ⟨u, hu, -, hub, hueq⟩ := setMap_spec g.build m v
      rw [← hm] at hmapped hru
      rw [← hu] at hru
      obtain ⟨-, hbuilt', hplan, hunpicked, hrsweep, hkeptfault, hmap, hmiss, hstate, hrescan⟩ := resolved_notPlaced (s := u)
        (r := r) (x := u.build g.build) g.build fl.kind hest rfl
        (fun i => by rw [hub]; exact allMatch_tile hmapped i) hru
      rw [hub, hvb] at hbuilt' hstate hrescan
      rw [hueq, hveq] at hkeptfault hmiss
      exact ⟨hbuilt', hplan, hunpicked, hsweep hrsweep, hkeptfault, hmap, hmiss, hstate,
        fun hk hst hend => hswept (hrescan hk hst hend)⟩
    · obtain ⟨u, hu, -, hub, hueq⟩ := setMap_spec g.build (mismatches v.line.verifyTol (if e.uncertain = some .placedOrNot
        then expectedPlaced (v.build g.build) e else (v.build g.build).built.height) (measuredHeights p)) v
      rw [uncertainResult_neither g.build fl.kind (hneither hno) (mt hall.mp hnot), ← hu] at hru
      have hustate : (u.build g.build).state = x.state := by rw [hub, hvb]
      have hm := scanMismatch_mismatched (some e.tag) (s := u) (b := g.build)
        (by rw [hustate]; rcases hst with h | h <;> simp [h])
      rw [← hru] at hm
      refine ⟨hm.state, fun hnodup => hm.stays (by rw [hub, hvb]; exact hnodup) e (by rw [hub, hvb]; exact hmem) hest, ?_,
        fun i => ?_, fun hvalid => ?_⟩
      · rw [hm.built, hub, hvb]
      · rw [hm.mismatch, hub, hvline]
        refine mismatches_iff (fun i => ?_) i
        rw [hexpected]
        split_ifs
        · exact htile i
        · rw [hbuilt, hvbuilt]
      · rw [hm.fault (by rw [hueq, hvfault]; exact hvalid), hueq, hveq]
end

section
/-!
The demand accounts, the plan lists and the claims agree (O13), part 1: what a change of one build, of the track list, of
the port and of the station state asks for.
-/
namespace Sys2Proof.Machine

variable {b : BuildId} {s t u v w : State} {e : PlanEntry} {tag : Tag}

/-! ### The laws of one build (R48, R82) -/

/-- What the plans ask of one build: its accounts, the states that hold entries, the origin of a hold, the exchange. -/
structure Build.Sound (x : Build) : Prop where
  accounts : DemandAccounts x
  states : x.plan ≠ [] → x.state = .opened ∨ x.state = .held
  origin : x.holdOrigin = .closing → x.state = .held ∧ x.plan = []
  swapDue : x.swapDue = true → x.state = .swapping

theorem PlansSound.build (h : PlansSound s) (b : BuildId) : (s.build b).Sound :=
  ⟨h.accounts b, h.states b, h.origin b, h.swapDue b⟩

section
variable {x y : Build}

theorem Build.Sound.noPlan (h : x.Sound) (hno : x.state ≠ .opened) (hnh : x.state ≠ .held) : x.plan = [] :=
  by_contra fun hp => (h.states hp).elim hno hnh

theorem Build.Sound.noSwap (h : x.Sound) (hno : x.state ≠ .swapping) : x.swapDue = false :=
  Bool.eq_false_iff.mpr fun hd => hno (h.swapDue hd)

/-- A plan list that is empty, with lines that plan nothing beyond their quantity, keeps the accounts (R48). -/
theorem demandAccounts_nil (hp : x.plan = [])
    (hl : ∀ l ∈ x.lines, l.planned = 0 ∧ l.planned + l.placed ≤ l.ordered) : DemandAccounts x := by
  refine ⟨by simp [hp], fun i => ?_⟩
  obtain ⟨h0, hle⟩ := hl _ (List.getElem_mem i.isLt)
  exact ⟨by rw [hp]; exact h0, hle⟩

/-- With an empty plan list no line has a planned count (R48). -/
theorem DemandAccounts.nil (h : DemandAccounts x) (hp : x.plan = []) :
    ∀ l ∈ x.lines, l.planned = 0 ∧ l.planned + l.placed ≤ l.ordered := by
  intro l hl
  obtain ⟨i, hi, rfl⟩ := List.mem_iff_getElem.mp hl
  obtain ⟨hcount, hle⟩ := h.2 ⟨i, hi⟩
  rw [hp] at hcount
  exact ⟨hcount, hle⟩

/-- A complete order leaves nothing planned (R48, R52). -/
theorem DemandAccounts.plan_nil (h : DemandAccounts x) (hc : orderComplete x = true) : x.plan = [] := by
  rw [orderComplete_iff] at hc
  refine List.eq_nil_iff_forall_not_mem.mpr fun e he => ?_
  have hline := h.1 e he
  obtain ⟨hcount, -⟩ := h.2 ⟨e.line, hline⟩
  have hzero := (hc _ (List.getElem_mem hline)).2
  have hpos : 0 < x.plan.countP (fun q => q.line == e.line) := List.countP_pos_iff.mpr ⟨e, he, by simp⟩
  simp only [Fin.getElem_fin] at hcount
  omega

/-- The accounts read of a plan list the lines of its entries. -/
theorem DemandAccounts.congr (h : DemandAccounts x) (hp : y.plan.map PlanEntry.line = x.plan.map PlanEntry.line)
    (hl : y.lines = x.lines) : DemandAccounts y := by
  have hcount (k : Nat) : y.plan.countP (fun e => e.line == k) = x.plan.countP (fun e => e.line == k) := by
    have hmap (l : List PlanEntry) : l.countP (fun e => e.line == k) = (l.map PlanEntry.line).countP (· == k) :=
      by rw [List.countP_map]; rfl
    rw [hmap, hmap, hp]
  obtain ⟨hlines, hcounts⟩ := h
  refine ⟨fun e he => ?_, fun i => ?_⟩
  · have hmem : e.line ∈ x.plan.map PlanEntry.line := hp ▸ List.mem_map_of_mem he
    obtain ⟨q, hq, heq⟩ := List.mem_map.mp hmem
    rw [hl, ← heq]
    exact hlines q hq
  · obtain ⟨h1, h2⟩ := hcounts ⟨i.val, hl ▸ i.isLt⟩
    simp only [Fin.getElem_fin, hl, hcount] at h1 h2 ⊢
    exact ⟨h1, h2⟩

/-- Changes of a build that its laws do not read. -/
structure Build.SamePlan (x y : Build) : Prop where
  tags : y.plan.map PlanEntry.tag = x.plan.map PlanEntry.tag
  entries : y.plan.map PlanEntry.line = x.plan.map PlanEntry.line
  lines : y.lines = x.lines
  state : y.state = x.state
  origin : y.holdOrigin = x.holdOrigin
  swapDue : y.swapDue = x.swapDue

theorem Build.Sound.congr (h : x.Sound) (k : x.SamePlan y) : y.Sound := by
  have hnil : y.plan = [] ↔ x.plan = [] := by
    rw [← List.map_eq_nil_iff (f := PlanEntry.tag), k.tags, List.map_eq_nil_iff]
  refine ⟨h.accounts.congr k.entries k.lines, ?_, ?_, ?_⟩
  · rw [k.state, Ne, hnil]
    exact h.states
  · rw [k.state, k.origin, hnil]
    exact h.origin
  · rw [k.state, k.swapDue]
    exact h.swapDue

end

/-! ### The laws of a state -/

theorem not_tagPlanned_iff (tag : Tag) :
    tagPlanned tag s = false ↔ ∀ b, tag ∉ (s.build b).plan.map PlanEntry.tag := by
  rw [← Bool.not_eq_true, tagPlanned_iff]
  simp

/-- A change of the plan lists that adds no tag leaves a tag unplanned. -/
theorem tagPlanned_of_sublist (h : ∀ b, ((t.build b).plan.map PlanEntry.tag).Sublist ((s.build b).plan.map PlanEntry.tag))
    (hn : tagPlanned tag s = false) : tagPlanned tag t = false := by
  rw [not_tagPlanned_iff] at hn ⊢
  exact fun b hmem => hn b ((h b).subset hmem)

/-- The plans read the builds, the track list, the port and the station state. -/
theorem PlansSound.of_same (h : PlansSound s) (hA : t.buildA = s.buildA) (hB : t.buildB = s.buildB)
    (ht : t.track = s.track) (hf : t.inFlight = s.inFlight) (hst : t.station = .awaitConfig → s.station = .awaitConfig) :
    PlansSound t := by
  have hb (c : BuildId) : t.build c = s.build c := build_congr hA hB c
  obtain ⟨h1, h2, h3, h4, h5, h6, h7, h8, h9⟩ := h
  refine ⟨fun c => ?_, by rw [hA, hB]; exact h2, by rw [TrackTagsDistinct, ht]; exact h3, fun r hr hu => ?_, fun c => ?_,
    fun c => ?_, fun c => ?_, fun f hff => ?_, fun ha c => ?_⟩
  · rw [hb]; exact h1 c
  · rw [tagPlanned, hA, hB]
    exact h4 r (ht ▸ hr) hu
  · rw [hb]; exact h5 c
  · rw [hb]; exact h6 c
  · rw [hb]; exact h7 c
  · rw [hb]; exact h8 f (hf ▸ hff)
  · rw [hb]; exact h9 (hst ha) c

/-- A change of one build (R48, R82): its own laws, no tag more, and what waits for READY or for a swap stays. -/
theorem PlansSound.updateBuild (h : PlansSound s) {g : Build → Build} (hg : (g (s.build b)).Sound)
    (htags : ((g (s.build b)).plan.map PlanEntry.tag).Sublist ((s.build b).plan.map PlanEntry.tag))
    (hunused : s.station = .awaitConfig → (s.build b).state = .unused → (g (s.build b)).state = .unused)
    (hswap : s.inFlight = none ∨ ((s.build b).state = .swapping → (s.build b).swapDue = false →
      (g (s.build b)).state = .swapping ∧ (g (s.build b)).swapDue = false)) : PlansSound (updateBuild b g s) := by
  have hsub (c : BuildId) : (((Machine.updateBuild b g s).build c).plan.map PlanEntry.tag).Sublist
      ((s.build c).plan.map PlanEntry.tag) := by
    by_cases hc : c = b
    · rw [hc, updateBuild_build_same]; exact htags
    · rw [updateBuild_build_other _ _ _ _ hc]
  have hsound (c : BuildId) : ((Machine.updateBuild b g s).build c).Sound := by
    by_cases hc : c = b
    · rw [hc, updateBuild_build_same]; exact hg
    · rw [updateBuild_build_other _ _ _ _ hc]; exact h.build c
  refine ⟨fun c => (hsound c).accounts, ?_, by rw [TrackTagsDistinct, updateBuild_track]; exact h.track, fun r hr hu => ?_,
    fun c => (hsound c).states, fun c => (hsound c).origin, fun c => (hsound c).swapDue, fun f hf hk hd => ?_, fun ha c => ?_⟩
  · rw [List.map_append]
    have htags := h.tags
    rw [List.map_append] at htags
    exact htags.sublist ((hsub .A).append (hsub .B))
  · rw [updateBuild_track] at hr
    exact tagPlanned_of_sublist hsub (h.unbacked r hr hu)
  · rw [updateBuild_inFlight] at hf
    obtain ⟨hst, hdue⟩ := h.swapping f hf hk hd
    by_cases hc : f.build = b
    · rw [hc, updateBuild_build_same]
      rw [hc] at hst hdue
      exact (hswap.resolve_left (by simp [hf])) hst hdue
    · rw [updateBuild_build_other _ _ _ _ hc]
      exact ⟨hst, hdue⟩
  · rw [updateBuild_station] at ha
    by_cases hc : c = b
    · rw [hc, updateBuild_build_same]
      exact hunused ha (h.waiting ha b)
    · rw [updateBuild_build_other _ _ _ _ hc]
      exact h.waiting ha c

/-- A change of one build that its laws do not read. -/
theorem PlansSound.updateSame (h : PlansSound s) (g : Build → Build) (hg : (s.build b).SamePlan (g (s.build b))) :
    PlansSound (Machine.updateBuild b g s) :=
  h.updateBuild ((h.build b).congr hg) (by rw [hg.tags]) (fun _ hu => hg.state.trans hu)
    (.inr fun hst hdue => ⟨hg.state.trans hst, hg.swapDue.trans hdue⟩)

/-- A change of one build in OPEN, HELD, CLOSING, LOADING or EMPTY to another state. -/
theorem PlansSound.moveBuild (h : PlansSound s) {g : Build → Build} (hg : (g (s.build b)).Sound)
    (htags : ((g (s.build b)).plan.map PlanEntry.tag).Sublist ((s.build b).plan.map PlanEntry.tag))
    (hu : (s.build b).state ≠ .unused) (hs : (s.build b).state ≠ .swapping) : PlansSound (Machine.updateBuild b g s) :=
  h.updateBuild hg htags (fun _ h => absurd h hu) (.inr fun h => absurd h hs)

/-! ### The track list (R11, R14, R30) -/

/-- Records move as long as one becomes UNBACKED only when its tag is planned no more. -/
theorem PlansSound.updateRecord (h : PlansSound s) (tag : Tag) {g : TrackRecord → TrackRecord}
    (htag : ∀ r, (g r).tag = r.tag)
    (hg : ∀ r ∈ s.track, r.tag = tag → (g r).state = .unbacked → r.state = .unbacked ∨ tagPlanned tag s = false) :
    PlansSound (Machine.updateRecord tag g s) := by
  have hplanned (k : Tag) : tagPlanned k (Machine.updateRecord tag g s) = tagPlanned k s := rfl
  obtain ⟨h1, h2, h3, h4, h5, h6, h7, h8, h9⟩ := h
  have hb (c : BuildId) : (Machine.updateRecord tag g s).build c = s.build c := updateRecord_build ..
  refine ⟨fun c => by rw [hb]; exact h1 c, h2, ?_, fun r hr hu => ?_, fun c => by rw [hb]; exact h5 c,
    fun c => by rw [hb]; exact h6 c, fun c => by rw [hb]; exact h7 c, fun f hf => by rw [hb]; exact h8 f hf,
    fun ha c => by rw [hb]; exact h9 ha c⟩
  · have htags : (Machine.updateRecord tag g s).track.map TrackRecord.tag = s.track.map TrackRecord.tag := by
      rw [Machine.updateRecord, List.map_map]
      refine List.map_congr_left fun r _ => ?_
      rw [Function.comp_apply]
      split_ifs
      · exact htag r
      · rfl
    rw [TrackTagsDistinct, htags]
    exact h3
  · obtain ⟨q, hq, rfl⟩ := List.mem_map.mp hr
    rw [hplanned]
    split_ifs at hu ⊢ with hkey
    · rw [htag]
      rcases hg q hq (by simpa using hkey) hu with hq' | hno
      · exact h4 q hq hq'
      · rw [beq_iff_eq.mp hkey]
        exact hno
    · exact h4 q hq hu

/-- Records leave. -/
theorem PlansSound.track_sublist (h : PlansSound s) (hA : t.buildA = s.buildA) (hB : t.buildB = s.buildB)
    (ht : t.track.Sublist s.track) (hf : t.inFlight = s.inFlight) (hst : t.station = s.station) : PlansSound t := by
  have hu : PlansSound { s with track := t.track } := by
    have hb (c : BuildId) : State.build { s with track := t.track } c = s.build c := build_congr rfl rfl c
    obtain ⟨h1, h2, h3, h4, h5, h6, h7, h8, h9⟩ := h
    exact ⟨fun c => by rw [hb]; exact h1 c, h2, h3.sublist (ht.map _), fun r hr hu => h4 r (ht.subset hr) hu,
      fun c => by rw [hb]; exact h5 c, fun c => by rw [hb]; exact h6 c, fun c => by rw [hb]; exact h7 c,
      fun f hf => by rw [hb]; exact h8 f hf, fun ha c => by rw [hb]; exact h9 ha c⟩
  exact hu.of_same hA hB rfl hf (fun ha => hst ▸ ha)

/-! ### The port (R113, R114, R153) -/

/-- The port takes an operation, which binds a build where it is a swap without the discard mark (R148, R153). -/
theorem PlansSound.fly (h : PlansSound s) (hA : t.buildA = s.buildA) (hB : t.buildB = s.buildB)
    (ht : t.track = s.track) (hst : t.station = s.station)
    (hf : ∀ f, t.inFlight = some f → f.kind = .swap → f.discard = false →
      (s.build f.build).state = .swapping ∧ (s.build f.build).swapDue = false) : PlansSound t := by
  have hu : PlansSound { s with inFlight := t.inFlight } := by
    have hb (c : BuildId) : State.build { s with inFlight := t.inFlight } c = s.build c := build_congr rfl rfl c
    obtain ⟨h1, h2, h3, h4, h5, h6, h7, -, h9⟩ := h
    exact ⟨fun c => by rw [hb]; exact h1 c, h2, h3, h4, fun c => by rw [hb]; exact h5 c, fun c => by rw [hb]; exact h6 c,
      fun c => by rw [hb]; exact h7 c, fun f hff hk hd => by rw [hb]; exact hf f hff hk hd,
      fun ha c => by rw [hb]; exact h9 ha c⟩
  exact hu.of_same hA hB ht rfl (fun ha => hst ▸ ha)

/-! ### A new entry (R23, R33, R34) -/

/-- A line takes one entry more where it has an open count (R48). -/
theorem demandAccounts_plan {x : Build} (h : DemandAccounts x) (planned : Surface)
    (hline : ∃ l, x.lines[e.line]? = some l ∧ 0 < l.openCount) : DemandAccounts { x with
      plan := x.plan ++ [e], planned := planned, lines := x.lines.modify e.line DemandLine.plan } := by
  obtain ⟨l, hl, hopen⟩ := hline
  obtain ⟨hlt, rfl⟩ := List.getElem?_eq_some_iff.mp hl
  refine ⟨fun q hq => ?_, fun i => ?_⟩
  · simp only [List.length_modify]
    rcases List.mem_append.mp hq with hq | hq
    · exact h.1 q hq
    · rw [List.mem_singleton.mp hq]
      exact hlt
  · have hi : i.val < x.lines.length := by simpa using i.isLt
    obtain ⟨hcount, hle⟩ := h.2 ⟨i.val, hi⟩
    simp only [Fin.getElem_fin] at hcount hle
    simp only [Fin.getElem_fin, List.getElem_modify, List.countP_append, List.countP_singleton]
    by_cases hk : e.line = i.val
    · simp only [hk] at hopen ⊢
      simp only [if_true, DemandLine.plan, beq_self_eq_true]
      rw [DemandLine.openCount] at hopen
      omega
    · simp only [hk, if_false, beq_iff_eq]
      exact ⟨hcount, hle⟩

/-- A new entry of a tag that is planned nowhere, whose record, where one stays, is not UNBACKED (R23, R33, R34). -/
theorem PlansSound.plan (h : PlansSound s) (hopen : (s.build b).state = .opened)
    (hline : ∃ l, (s.build b).lines[e.line]? = some l ∧ 0 < l.openCount) (hnew : tagPlanned e.tag s = false)
    (hA : t.buildA = (addEntry b e s).buildA) (hB : t.buildB = (addEntry b e s).buildB)
    (ht : t.track.Sublist s.track) (hun : ∀ r ∈ t.track, r.state = .unbacked → r.tag ≠ e.tag)
    (hf : t.inFlight = s.inFlight) (hst : t.station = s.station) : PlansSound t := by
  have hb (c : BuildId) : t.build c = (addEntry b e s).build c := build_congr hA hB c
  have hbb : t.build b = { s.build b with
      plan := (s.build b).plan ++ [e]
      planned := (s.build b).planned.apply e.foot e.h e.weight e.rating
      lines := (s.build b).lines.modify e.line DemandLine.plan } := by
    rw [hb, addEntry, updateBuild_build_same]
  obtain ⟨planned, hplanned⟩ : ∃ p, p = (s.build b).planned.apply e.foot e.h e.weight e.rating := ⟨_, rfl⟩
  rw [← hplanned] at hbb
  have hbo (c : BuildId) (hc : c ≠ b) : t.build c = s.build c := by rw [hb, addEntry, updateBuild_build_other _ _ _ _ hc]
  have hsound (c : BuildId) : (t.build c).Sound := by
    by_cases hc : c = b
    · rw [hc, hbb]
      have hs := h.build b
      refine ⟨demandAccounts_plan hs.accounts planned hline, fun _ => .inl hopen, fun ho => ?_, hs.swapDue⟩
      have hheld := (hs.origin ho).1
      rw [hopen] at hheld
      cases hheld
    · rw [hbo c hc]
      exact h.build c
  rw [not_tagPlanned_iff] at hnew
  have hplantags (c : BuildId) (k : Tag) : k ∈ (t.build c).plan.map PlanEntry.tag →
      k ∈ (s.build c).plan.map PlanEntry.tag ∨ k = e.tag := by
    by_cases hc : c = b
    · rw [hc, hbb]
      simp only [List.map_append, List.mem_append, List.map_cons, List.map_nil, List.mem_singleton]
      exact id
    · rw [hbo c hc]
      exact .inl
  have htags := h.tags
  rw [List.map_append, List.nodup_append] at htags
  obtain ⟨hnodA, hnodB, hdisj⟩ := htags
  refine ⟨fun c => (hsound c).accounts, ?_, h.track.sublist (ht.map _), fun r hr hu => ?_, fun c => (hsound c).states,
    fun c => (hsound c).origin, fun c => (hsound c).swapDue, fun f hff hk hd => ?_, fun ha c => ?_⟩
  · have hnod (c : BuildId) (hn : ((s.build c).plan.map PlanEntry.tag).Nodup) : ((t.build c).plan.map PlanEntry.tag).Nodup := by
      by_cases hc : c = b
      · rw [hc] at hn ⊢
        rw [hbb, List.map_append, List.nodup_append]
        refine ⟨hn, List.nodup_singleton _, fun k hk m hm => ?_⟩
        rw [List.map_cons, List.map_nil, List.mem_singleton] at hm
        rw [hm]
        exact fun he => hnew b (he ▸ hk)
      · rw [hbo c hc]
        exact hn
    rw [List.map_append, List.nodup_append]
    refine ⟨hnod .A hnodA, hnod .B hnodB, fun k hk m hm hkm => ?_⟩
    subst hkm
    cases b with
    | A =>
      have hB' : k ∈ (s.build .B).plan.map PlanEntry.tag := by rw [← hbo .B nofun]; exact hm
      rcases hplantags .A k hk with hk | hk
      · exact hdisj k hk k hB' rfl
      · exact hnew .B (hk ▸ hB')
    | B =>
      have hA' : k ∈ (s.build .A).plan.map PlanEntry.tag := by rw [← hbo .A nofun]; exact hk
      rcases hplantags .B k hm with hk | hk
      · exact hdisj k hA' k hk rfl
      · exact hnew .A (hk ▸ hA')
  · rw [not_tagPlanned_iff]
    intro c hmem
    rcases hplantags c r.tag hmem with hmem | heq
    · exact (not_tagPlanned_iff _).mp (h.unbacked r (ht.subset hr) hu) c hmem
    · exact hun r hr hu heq
  · obtain ⟨hstate, hdue⟩ := h.swapping f (hf ▸ hff) hk hd
    by_cases hc : f.build = b
    · rw [hc, hopen] at hstate
      cases hstate
    · rw [hbo _ hc]
      exact ⟨hstate, hdue⟩
  · by_cases hc : c = b
    · have hunused := h.waiting (hst ▸ ha) b
      rw [hopen] at hunused
      cases hunused
    · rw [hbo c hc]
      exact h.waiting (hst ▸ ha) c

end Sys2Proof.Machine
end

section
/-!
The demand accounts, the plan lists and the claims agree (O13), part 2: entries that leave, recomputation, the ways of a
build to another state, and the claim unit.
-/
namespace Sys2Proof.Machine

variable {b : BuildId} {s t u v w : State} {e : PlanEntry} {tag : Tag} {x : Build}

/-! ### An entry leaves (R48, R86, R93) -/

/-- With distinct tags an entry that leaves takes one from the count of its line (R48). -/
theorem countP_without {l : List PlanEntry} (hd : (l.map PlanEntry.tag).Nodup) (he : e ∈ l) (p : PlanEntry → Bool) :
    l.countP p = (l.filter (fun q => !(q.tag == e.tag))).countP p + if p e = true then 1 else 0 := by
  obtain ⟨older, newer, rfl⟩ := List.append_of_mem he
  rw [List.map_append, List.map_cons, List.nodup_append, List.nodup_cons] at hd
  obtain ⟨-, ⟨hnewer, -⟩, holder⟩ := hd
  have hkeep (k : List PlanEntry) (hk : ∀ q ∈ k, q.tag ≠ e.tag) : k.filter (fun q => !(q.tag == e.tag)) = k :=
    List.filter_eq_self.mpr fun q hq => by simpa using hk q hq
  have h1 := hkeep older fun q hq ht => holder _ (List.mem_map_of_mem hq) _ List.mem_cons_self ht
  have h2 := hkeep newer fun q hq ht => hnewer (ht ▸ List.mem_map_of_mem hq)
  rw [List.filter_append, List.filter_cons_of_neg (by simp), h1, h2, List.countP_append, List.countP_append,
    List.countP_cons, Nat.add_assoc]

/-- The accounts stay when an entry leaves and its line counts one planned less, as not placed or as placed (R48). -/
theorem demandAccounts_without (h : DemandAccounts x) (hd : (x.plan.map PlanEntry.tag).Nodup) (he : e ∈ x.plan)
    {g : DemandLine → DemandLine} (hg : ∀ l : DemandLine, 0 < l.planned →
      (g l).planned = l.planned - 1 ∧ (g l).planned + (g l).placed ≤ l.planned + l.placed ∧ (g l).ordered = l.ordered) :
    DemandAccounts { x with
      plan := x.plan.filter (fun q => !(q.tag == e.tag)), lines := x.lines.modify e.line g } := by
  refine ⟨fun q hq => ?_, fun i => ?_⟩
  · simp only [List.length_modify]
    exact h.1 q (List.mem_filter.mp hq).1
  · have hi : i.val < x.lines.length := by simpa using i.isLt
    obtain ⟨hcount, hle⟩ := h.2 ⟨i.val, hi⟩
    have hwithout := countP_without hd he (fun q => q.line == i.val)
    simp only [Fin.getElem_fin] at hcount hle
    simp only [Fin.getElem_fin, List.getElem_modify]
    by_cases hk : e.line = i.val
    · simp only [hk, beq_self_eq_true, if_true] at hwithout ⊢
      obtain ⟨h1, h2, h3⟩ := hg _ (show 0 < (x.lines[i.val]).planned by omega)
      omega
    · simp only [hk, if_false, beq_iff_eq] at hwithout ⊢
      exact ⟨by omega, hle⟩

theorem unplan_counts (l : DemandLine) (h : 0 < l.planned) : l.unplan.planned = l.planned - 1 ∧
    l.unplan.planned + l.unplan.placed ≤ l.planned + l.placed ∧ l.unplan.ordered = l.ordered := by
  refine ⟨rfl, ?_, rfl⟩
  show l.planned - 1 + l.placed ≤ l.planned + l.placed
  omega

theorem place_counts (l : DemandLine) (h : 0 < l.planned) : l.place.planned = l.planned - 1 ∧
    l.place.planned + l.place.placed ≤ l.planned + l.placed ∧ l.place.ordered = l.ordered := by
  refine ⟨rfl, ?_, rfl⟩
  show l.planned - 1 + (l.placed + 1) ≤ l.planned + l.placed
  omega

theorem PlansSound.planTags (h : PlansSound s) (b : BuildId) : ((s.build b).plan.map PlanEntry.tag).Nodup := by
  have htags := h.tags
  rw [List.map_append, List.nodup_append] at htags
  cases b with
  | A => exact htags.1
  | B => exact htags.2.1

/-- A planned tag is planned on one build (R48). -/
theorem PlansSound.other_tags (h : PlansSound s) {c : BuildId} (hc : c ≠ b) (he : e ∈ (s.build b).plan) :
    e.tag ∉ (s.build c).plan.map PlanEntry.tag := by
  have htags := h.tags
  rw [List.map_append, List.nodup_append] at htags
  obtain ⟨-, -, hdisj⟩ := htags
  intro hmem
  cases b <;> cases c
  · exact hc rfl
  · exact hdisj _ (List.mem_map_of_mem he) _ hmem rfl
  · exact hdisj _ hmem _ (List.mem_map_of_mem he) rfl
  · exact hc rfl

/-- An entry leaves its build, as not placed or as placed: its tag is planned no more (R86, R93). -/
theorem PlansSound.without (h : PlansSound s) (he : e ∈ (s.build b).plan) {g : DemandLine → DemandLine}
    (hg : ∀ l : DemandLine, 0 < l.planned →
      (g l).planned = l.planned - 1 ∧ (g l).planned + (g l).placed ≤ l.planned + l.placed ∧ (g l).ordered = l.ordered)
    (ht : t = Machine.updateBuild b (fun x => { x with
      plan := x.plan.filter (fun q => !(q.tag == e.tag)), lines := x.lines.modify e.line g }) s) :
    PlansSound t ∧ tagPlanned e.tag t = false := by
  subst ht
  have hs := h.build b
  have hsub : ((s.build b).plan.filter (fun q => !(q.tag == e.tag))).Sublist (s.build b).plan := List.filter_sublist
  refine ⟨h.updateBuild ⟨demandAccounts_without hs.accounts (h.planTags b) he hg, fun _ => hs.states (List.ne_nil_of_mem he),
      fun ho => ?_, hs.swapDue⟩ (hsub.map _) (fun _ => id) (.inr fun h1 h2 => ⟨h1, h2⟩), ?_⟩
  · have hnil := (hs.origin ho).2
    rw [hnil] at he
    exact absurd he List.not_mem_nil
  · rw [not_tagPlanned_iff]
    intro c hmem
    by_cases hc : c = b
    · rw [hc, updateBuild_build_same] at hmem
      obtain ⟨q, hq, htag⟩ := List.mem_map.mp hmem
      have hne := (List.mem_filter.mp hq).2
      simp [htag] at hne
    · rw [updateBuild_build_other _ _ _ _ hc] at hmem
      exact h.other_tags hc he hmem

/-! ### Operations that the plans do not read -/

theorem PlansSound.triggerSweep (h : PlansSound s) : PlansSound (triggerSweep s) := h.of_same rfl rfl rfl rfl id
theorem PlansSound.count (h : PlansSound s) (c : CounterName) : PlansSound (count c s) := h.of_same rfl rfl rfl rfl id
theorem PlansSound.recordFault (h : PlansSound s) (c : FaultCause) (v : Severity) (d : Option BuildId)
    (tag : Option Tag) : PlansSound (recordFault c v d tag s) := h.of_same rfl rfl rfl rfl id
theorem PlansSound.abortClaim (h : PlansSound s) (tag : Tag) : PlansSound (abortClaim tag s) :=
  h.of_same rfl rfl rfl rfl id
theorem PlansSound.unregister (h : PlansSound s) (k : PosKind) (tag : Tag) : PlansSound (Machine.unregister k tag s) :=
  h.of_same rfl rfl rfl rfl id
theorem PlansSound.register (h : PlansSound s) (k : PosKind) (tag : Tag) (c : Count) :
    PlansSound (Machine.register k tag c s) := h.of_same rfl rfl rfl rfl id
theorem PlansSound.offer (h : PlansSound s) (body : TxBody) : PlansSound (offer body s) :=
  h.of_same (by simp) (by simp) (by simp) (by simp) (by simp)
theorem PlansSound.leavePick (h : PlansSound s) (tag : Tag) : PlansSound (leavePick tag s) :=
  h.of_same (by simp) (by simp) (by simp) (by simp) (by simp)
theorem PlansSound.joinPick (h : PlansSound s) (tag : Tag) (b : BuildId) (c : Count) : PlansSound (joinPick tag b c s) :=
  h.of_same (by simp) (by simp) (by simp) (by simp) (by simp)
theorem PlansSound.offerAll (h : PlansSound s) (l : List TxBody) : PlansSound (offerAll l s) := by
  induction l generalizing s with
  | nil => exact h
  | cons body l ih => exact ih (h.offer body)

/-! ### Removals and recomputations (R30, R86 to R91) -/

theorem PlansSound.toUnbid (h : PlansSound s) (tag : Tag) : PlansSound (Machine.updateRecord tag TrackRecord.toUnbid s) :=
  h.updateRecord tag (fun _ => rfl) fun _ _ _ hu => nomatch hu

/-- The record of a withdrawn CONTESTED entry becomes UNBACKED at most (R30). -/
theorem PlansSound.unbackRecord (h : PlansSound s) (hno : tagPlanned tag s = false) : PlansSound (unbackRecord tag s) := by
  rw [Machine.unbackRecord]
  split
  · exact h
  · split
    · exact h.updateRecord tag (fun _ => rfl) fun _ _ _ _ => .inr hno
    · split_ifs
      · exact (h.updateRecord tag (g := fun r => { r.dropEntryRef with state := .unbacked }) (fun _ => rfl)
          fun _ _ _ _ => .inr hno).abortClaim tag
      · exact (h.abortClaim tag).toUnbid tag
    all_goals exact h

theorem PlansSound.takeOut (h : PlansSound s) (he : e ∈ (s.build b).plan) :
    PlansSound (takeOut b e s) ∧ tagPlanned e.tag (takeOut b e s) = false := by
  obtain ⟨hs, hno⟩ := h.without he unplan_counts rfl
  exact ⟨hs.triggerSweep, hno⟩

theorem PlansSound.remove (h : PlansSound s) (r : Removal) (he : r.entry ∈ (s.build b).plan) : PlansSound (r.run b s) := by
  obtain ⟨hs, hno⟩ := h.takeOut he
  cases r with
  | withdrawn m e =>
    rw [Removal.run, withdrawEntry]
    split
    · exact hs.unbackRecord hno
    · exact (hs.leavePick _).offer _
    · exact (hs.leavePick _).offer _
  | dropped e => exact hs.leavePick _

/-- A run of removals of entries of the build, each once (R86, R87). -/
theorem PlansSound.removes {l : List Removal} (h : PlansSound s) (k : Removes b s l t)
    (hmem : ∀ r ∈ l, r.entry ∈ (s.build b).plan) (hd : (l.map fun r => r.entry.tag).Nodup) : PlansSound t := by
  induction k with
  | refl => exact h
  | replan f k ih => exact (ih hmem hd).updateSame _ ⟨rfl, rfl, rfl, rfl, rfl, rfl⟩
  | remove r k ih =>
    rw [List.map_append, List.map_cons, List.map_nil, List.nodup_append] at hd
    obtain ⟨hl, -, hnew⟩ := hd
    refine (ih (fun q hq => hmem q (List.mem_append_left _ hq)) hl).remove r ?_
    exact (k.mem_plan _).mpr ⟨hmem r (by simp), fun q hq ht =>
      hnew _ (List.mem_map_of_mem hq) r.entry.tag List.mem_cons_self ht.symm⟩

/-- The entries of a sublist of the plan list are removed. -/
theorem PlansSound.withdraws {l : List PlanEntry} {m : MissReason} (h : PlansSound s)
    (k : Removes b s (l.map (.withdrawn m)) t) (hl : l.Sublist (s.build b).plan) : PlansSound t := by
  refine h.removes k (fun r hr => ?_) ?_
  · obtain ⟨e, he, rfl⟩ := List.mem_map.mp hr
    exact hl.subset he
  · rw [List.map_map]
    exact (h.planTags b).sublist (hl.map _)

theorem PlansSound.recompute (h : PlansSound s) (b : BuildId) : PlansSound (recompute b s) := by
  obtain ⟨w, hw, -, hrun⟩ := recompute_removes b s
  have hs := h.withdraws hw (fallen_sublist _ _ _ _)
  rw [hrun]
  split_ifs
  · exact hs
  · exact hs.triggerSweep

theorem PlansSound.withdrawMovable (h : PlansSound s) (b : BuildId) (m : MissReason) :
    PlansSound (withdrawMovable b m s) := h.withdraws (withdrawMovable_removes m) List.filter_sublist

theorem PlansSound.withdrawBatch (h : PlansSound s) (b : BuildId) (m : MissReason) :
    PlansSound (withdrawBatch b m s) := h.withdraws (withdrawBatch_removes m) List.filter_sublist

theorem PlansSound.withdrawAlone (h : PlansSound s) (m : MissReason) (he : e ∈ (s.build b).plan) :
    PlansSound (withdrawAlone b m e s) := (h.remove (.withdrawn m e) he).recompute b

theorem PlansSound.dropEntry (h : PlansSound s) (he : e ∈ (s.build b).plan) : PlansSound (dropEntry b e s) :=
  h.remove (.dropped e) he

/-! ### The claim unit (R28 to R30, R39) -/

theorem PlansSound.removeContested (h : PlansSound s) (b : BuildId) (tag : Tag) : PlansSound (removeContested b tag s) := by
  rw [Machine.removeContested]
  split
  · exact h
  · rename_i he
    exact (h.takeOut (findEntry_mem he)).1.recompute b

theorem PlansSound.removeBidEntry (h : PlansSound s) (r : TrackRecord) : PlansSound (removeBidEntry r s) := by
  rw [Machine.removeBidEntry]
  split
  · exact h
  · exact h.removeContested _ _

theorem PlansSound.loseClaim (h : PlansSound s) (r : TrackRecord) : PlansSound (loseClaim r s) := by
  have hs : PlansSound (Machine.removeBidEntry r (Machine.updateRecord r.tag (fun r => { r.dropEntryRef with state := .lost }) s)) :=
    (h.updateRecord r.tag (g := fun r => { r.dropEntryRef with state := .lost }) (fun _ => rfl) fun _ _ _ hu => nomatch hu).removeBidEntry r
  rw [Machine.loseClaim]
  split_ifs
  · exact (hs.abortClaim _).count _
  · exact hs.count _

theorem PlansSound.hearClaim (h : PlansSound s) (tag : Tag) (c : Heard) : PlansSound (hearClaim tag c s) := by
  have hs : PlansSound (Machine.updateRecord tag (TrackRecord.hear c) s) := by
    refine h.updateRecord tag (fun r => ?_) fun r _ _ hu => .inl ?_
    · rw [TrackRecord.hear]
      split_ifs <;> rfl
    · rw [TrackRecord.hear] at hu
      split_ifs at hu <;> exact hu
  rw [Machine.hearClaim]
  split
  · exact h
  · split_ifs
    · exact hs.loseClaim _
    · exact hs
    · exact h

theorem PlansSound.takeDeadline (h : PlansSound s) (tag : Tag) : PlansSound (takeDeadline tag s) := by
  have hs : PlansSound (Machine.updateRecord tag (fun r => { r with deadlinePassed := true }) (Machine.unregister .sendDeadline tag s)) :=
    (h.unregister _ _).updateRecord tag (fun _ => rfl) fun _ _ _ hu => .inl hu
  rw [Machine.takeDeadline]
  split
  · exact hs
  · split_ifs
    · exact hs.abortClaim _
    · exact ((hs.abortClaim _).toUnbid _).removeBidEntry _
    · exact hs

/-- The entries of aborted claims leave, each once (R39). -/
theorem PlansSound.takeOutAborted (h : PlansSound s) (b : BuildId) (tags : List Tag) :
    PlansSound (takeOutAborted b tags s) := by
  have hfold (l : List PlanEntry) (v : State) (hv : PlansSound v) (hmem : ∀ e ∈ l, e ∈ (v.build b).plan)
      (hd : (l.map PlanEntry.tag).Nodup) :
      PlansSound (l.foldl (fun t e => Machine.updateRecord e.tag TrackRecord.toUnbid (Machine.takeOut b e t)) v) := by
    induction l generalizing v with
    | nil => exact hv
    | cons e l ih =>
      rw [List.map_cons, List.nodup_cons] at hd
      obtain ⟨hnew, hl⟩ := hd
      refine ih _ ((hv.takeOut (hmem e List.mem_cons_self)).1.toUnbid _) (fun q hq => ?_) hl
      rw [updateRecord_build, takeOut_build]
      refine List.mem_filter.mpr ⟨hmem q (List.mem_cons_of_mem _ hq), ?_⟩
      have hne : q.tag ≠ e.tag := fun ht => hnew (ht ▸ List.mem_map_of_mem hq)
      simpa using hne
  exact hfold _ s h (fun e he => (List.mem_filter.mp he).1) ((h.planTags b).sublist (List.filter_sublist.map _))

theorem PlansSound.recomputeIf (h : PlansSound s) (touched : Bool) (b : BuildId) : PlansSound (recomputeIf touched b s) := by
  rw [Machine.recomputeIf]
  split_ifs
  · exact h.recompute b
  · exact h

theorem PlansSound.leaveRun (h : PlansSound s) : PlansSound (leaveRun s) := by
  have habort : PlansSound (abortAllClaims s) := h.of_same rfl rfl rfl rfl id
  exact (((habort.takeOutAborted _ _).takeOutAborted _ _).recomputeIf _ _).recomputeIf _ _

end Sys2Proof.Machine
end

section
/-!
The demand accounts, the plan lists and the claims agree (O13), part 3: bids, the close of a record, and the ways of a
build from one state to another.
-/
namespace Sys2Proof.Machine

variable {b : BuildId} {s t u v w : State} {e : PlanEntry} {tag : Tag} {x : Build} {r : TrackRecord}

/-! ### Bids (R19 to R23) -/

/-- The line of an offered candidate has an open count (R48, R49). -/
theorem OffersCandidate.line {d : CaseDesc} {c : Candidate} (h : OffersCandidate s d c) :
    ∃ l, (s.build c.build).lines[c.line]? = some l ∧ 0 < l.openCount := by
  obtain ⟨-, l, -, -, -, hl, -, hopen, -⟩ := h
  refine ⟨l, hl, ?_⟩
  rw [DemandLine.openCount]
  omega

theorem PlansSound.evaluate (h : PlansSound s) (hr : r ∈ s.track) : PlansSound (evaluate r s) := by
  rw [Machine.evaluate]
  split_ifs with heval
  · obtain ⟨hstate, -, hfree⟩ := (evaluable_iff r).mp heval
    split
    · exact h
    · rename_i c hc
      split_ifs
      · obtain ⟨⟨hopen, -⟩, hoffers, -⟩ := (stationCandidate_iff s r.desc c).mp hc
        have hplan : PlansSound (queueClaim r.tag c.found.score c.build
            (addEntry c.build (entryFor r.tag r.desc c .contested) s)) := by
          refine h.plan (b := c.build) (e := entryFor r.tag r.desc c .contested) hopen (OffersCandidate.line hoffers) hfree
            rfl rfl (by simp [queueClaim, addEntry]) (fun q hq hu ht => ?_) (by simp [queueClaim, addEntry])
            (by simp [queueClaim, addEntry])
          have hq' : q ∈ s.track := by simpa [queueClaim, addEntry] using hq
          rw [List.inj_on_of_nodup_map h.track hq' hr ht, hstate] at hu
          cases hu
        exact hplan.updateRecord r.tag (fun _ => rfl) fun _ _ _ hu => nomatch hu
      · exact h
  · exact h

/-- A record of a new tag, UNBID, joins the track list (R11). -/
theorem PlansSound.appendRecord (h : PlansSound s) (hnew : ∀ q ∈ s.track, q.tag ≠ r.tag) (hst : r.state = .unbid) :
    PlansSound (appendRecord r s) := by
  have hu : PlansSound { s with track := s.track ++ [r] } := by
    have hb (c : BuildId) : State.build { s with track := s.track ++ [r] } c = s.build c := build_congr rfl rfl c
    obtain ⟨h1, h2, h3, h4, h5, h6, h7, h8, h9⟩ := h
    refine ⟨fun c => by rw [hb]; exact h1 c, h2, ?_, fun q hq hu => ?_, fun c => by rw [hb]; exact h5 c,
      fun c => by rw [hb]; exact h6 c, fun c => by rw [hb]; exact h7 c, fun f hf => by rw [hb]; exact h8 f hf,
      fun ha c => by rw [hb]; exact h9 ha c⟩
    · rw [TrackTagsDistinct, List.map_append, List.nodup_append]
      refine ⟨h3, List.nodup_singleton _, fun k hk m hm => ?_⟩
      obtain ⟨q, hq, rfl⟩ := List.mem_map.mp hk
      rw [List.map_cons, List.map_nil, List.mem_singleton] at hm
      rw [hm]
      exact hnew q hq
    · rcases List.mem_append.mp hq with hq | hq
      · exact h4 q hq hu
      · rw [List.mem_singleton.mp hq, hst] at hu
        cases hu
  rw [Machine.appendRecord]
  split_ifs
  · exact hu.register _ _ _
  · exact (hu.register _ _ _).register _ _ _

theorem PlansSound.takeNotice (h : PlansSound s) (p : List Byte) : PlansSound (takeNotice p s) := by
  rw [Machine.takeNotice]
  split
  · exact h.count _
  · rename_i hpass
    refine (h.appendRecord (noticeRefusal_none hpass).1 rfl).evaluate ?_
    rw [Machine.appendRecord]
    split_ifs <;> exact List.mem_append_right _ (List.mem_singleton_self _)

theorem PlansSound.sweepOffer (h : PlansSound s) : PlansSound (sweepOffer s) := by
  rw [Machine.sweepOffer]
  split
  · exact h
  · split
    · exact h.of_same rfl rfl rfl rfl id
    · rename_i hr
      have he := h.evaluate (List.mem_of_getElem? hr)
      rw [advanceSweep]
      split_ifs <;> exact he.of_same rfl rfl rfl rfl id

/-! ### The close of a record (R14, R31 to R34) -/

theorem PlansSound.removeRecord (h : PlansSound s) (tag : Tag) : PlansSound (removeRecord tag s) :=
  h.track_sublist rfl rfl List.filter_sublist rfl rfl

theorem PlansSound.winCase (h : PlansSound s) (r : TrackRecord) (b : BuildId) : PlansSound (winCase r b s) := by
  refine PlansSound.joinPick (h.updateSame _ ⟨?_, ?_, rfl, rfl, rfl, rfl⟩) _ _ _
  all_goals
    rw [List.map_map]
    refine List.map_congr_left fun q _ => ?_
    rw [Function.comp_apply]
    split_ifs <;> rfl

/-- A fresh placement at the close plans a tag whose record leaves with the same command (R34). -/
theorem PlansSound.freshPlacement (h : PlansSound s) (hfree : tagPlanned r.tag s = false) (b : BuildId) :
    PlansSound (Machine.removeRecord r.tag (freshPlacement r b s)) := by
  by_cases hfits : (s.build b).state = .opened ∧ (s.build b).plan.length < s.credits b
  · cases hc : buildCandidate s b r.desc with
    | none =>
      rw [freshPlacement_forfeit (.inr (.inr hc))]
      exact ((h.offer _).count _).removeRecord _
    | some c =>
      obtain ⟨hopen, hl⟩ := hfits
      obtain ⟨rfl, hoffers⟩ := (buildCandidate_iff s b r.desc c).mp hc
      rw [freshPlacement_placed hopen hl hc]
      refine h.plan (b := c.build) (e := entryFor r.tag r.desc c .won) hopen (OffersCandidate.line hoffers) hfree
        (by simp) (by simp) ?_ (fun q hq _ => ?_) (by simp [addEntry]) (by simp [addEntry])
      · refine List.filter_sublist.trans ?_
        simp [addEntry, unlinkClaim, unregisterTrack]
      · have hne := (List.mem_filter.mp hq).2
        simpa [entryFor] using hne
  · rw [freshPlacement_forfeit ((not_and_or.mp hfits).imp id fun hl => .inl (Nat.le_of_not_lt hl))]
    exact ((h.offer _).count _).removeRecord _

theorem PlansSound.closeRecord (h : PlansSound s) (tag : Tag) : PlansSound (closeRecord tag s) := by
  rw [Machine.closeRecord]
  split
  · exact h.unregister _ _
  · rename_i r hr
    obtain ⟨k, hk⟩ : ∃ k, k = hearAll (bufferedClaims tag s) r := ⟨_, rfl⟩
    have hkstate : k.state = r.state := by rw [hk, hearAll_state]
    have hktag : k.tag = tag := by
      rw [hk, hearAll_tag]
      exact findRecord_tag tag r hr
    rw [← hk, closeDecision]
    split
    · exact h.removeRecord _
    · exact h.removeRecord _
    · exact ((h.abortClaim _).removeBidEntry _).removeRecord _
    · exact h.removeRecord _
    · split_ifs
      · exact ((h.removeBidEntry _).count _).removeRecord _
      · exact (h.winCase _ _).removeRecord _
    · exact h.removeRecord _
    · rename_i hunbacked _
      split_ifs
      · exact h.removeRecord _
      · rw [← hktag]
        refine h.freshPlacement ?_ _
        have hmem : r ∈ s.track := List.mem_of_find?_eq_some hr
        have hfree := h.unbacked r hmem (hkstate ▸ hunbacked)
        rwa [hktag, ← findRecord_tag tag r hr]

theorem PlansSound.closePoint (h : PlansSound s) (tag : Tag) : PlansSound (closePoint tag s) := by
  rw [Machine.closePoint]
  split_ifs
  · exact (h.takeDeadline tag).closeRecord tag
  · exact h.closeRecord tag
  · exact h

theorem PlansSound.giveUp (h : PlansSound s) (tag : Tag) (m : MissReason) : PlansSound (giveUp tag m s) := by
  rw [Machine.giveUp]
  split
  · exact h
  · split
    · exact h
    · rename_i he
      exact h.withdrawAlone m (findEntry_mem he)

/-! ### Transmissions (R24, R25, R27) -/

theorem PlansSound.transmissionComplete (h : PlansSound s) : PlansSound (transmissionComplete s) := by
  have hdrop : PlansSound (dropOnLine s) := h.of_same rfl rfl rfl rfl id
  rw [Machine.transmissionComplete]
  split
  · exact h
  · split
    · exact hdrop
    · refine hdrop.updateRecord _ (fun r => ?_) fun r _ _ hu => .inl ?_
      · rw [TrackRecord.transmitted]
        split_ifs <;> rfl
      · rw [TrackRecord.transmitted] at hu
        split_ifs at hu
        exact hu

theorem PlansSound.claimFailed (h : PlansSound s) (tag : Tag) : PlansSound (claimFailed tag s) := by
  rw [Machine.claimFailed]
  split
  · exact h
  · split
    · exact (h.toUnbid _).removeBidEntry _
    · exact h.toUnbid _
    all_goals exact h

theorem PlansSound.transmissionFailure (h : PlansSound s) : PlansSound (transmissionFailure s) := by
  have hdrop : PlansSound (dropOnLine (forgetOwn s)) := h.of_same rfl rfl rfl rfl id
  rw [Machine.transmissionFailure]
  split
  · exact h
  · split_ifs
    · split
      · exact hdrop
      · exact hdrop.claimFailed _
    · exact h.of_same rfl rfl rfl rfl id

theorem PlansSound.arbitration (h : PlansSound s) (won : Bool) : PlansSound (arbitration won s) := by
  rw [Machine.arbitration]
  split_ifs
  · split
    · exact h
    · exact h.of_same rfl rfl rfl rfl id
  · exact h

theorem PlansSound.frameReception (h : PlansSound s) (f : Frame) (own : Bool) : PlansSound (frameReception f own s) := by
  have hbuffer (u : State) (hu : PlansSound u) : PlansSound (bufferFrame f u) := by
    rw [bufferFrame]
    split_ifs
    · exact hu.count _
    · exact hu.of_same rfl rfl rfl rfl id
  have hsilent : PlansSound (enterSilent s) := by
    have hstate : PlansSound { s with station := .silent, pauseTimer := none, pairing := none } :=
      h.of_same rfl rfl rfl rfl nofun
    have hempty : PlansSound (emptyTxQueue (Machine.leaveRun { s with station := .silent, pauseTimer := none, pairing := none })) :=
      hstate.leaveRun.of_same rfl rfl rfl rfl id
    exact hempty.recordFault _ _ _ _
  rw [Machine.frameReception]
  split_ifs
  · exact hbuffer _ (h.of_same rfl rfl rfl rfl id)
  · exact hbuffer _ hsilent
  · exact hbuffer _ h
  · exact h

end Sys2Proof.Machine
end

section
/-!
The demand accounts, the plan lists and the claims agree (O13), part 4: the ways of a build from one state to another, the
arbiter, and the outcomes and results of operations.
-/
namespace Sys2Proof.Machine

variable {b : BuildId} {s t u v w : State} {e : PlanEntry} {tag : Tag} {x y : Build}

/-! ### Builds without entries -/

/-- A build with an empty plan list is sound with its lines, its origin and its due swap in order. -/
theorem Build.sound_of_noPlan (hp : x.plan = [])
    (hl : ∀ l ∈ x.lines, l.planned = 0 ∧ l.planned + l.placed ≤ l.ordered)
    (ho : x.holdOrigin = .closing → x.state = .held) (hd : x.swapDue = true → x.state = .swapping) : x.Sound :=
  ⟨demandAccounts_nil hp hl, fun h => absurd hp h, fun h => ⟨ho h, hp⟩, hd⟩

/-- A sound build without entries that goes to another state keeps its lines. -/
theorem Build.Sound.move (h : x.Sound) (hp : x.plan = []) (hyp : y.plan = []) (hl : y.lines = x.lines)
    (ho : y.holdOrigin = .closing → y.state = .held) (hd : y.swapDue = true → y.state = .swapping) : y.Sound :=
  Build.sound_of_noPlan hyp (by rw [hl]; exact h.accounts.nil hp) ho hd

theorem Build.Sound.notClosingOrigin (h : x.Sound) (hst : x.state ≠ .held) : x.holdOrigin ≠ .closing :=
  fun ho => hst (h.origin ho).1

/-- The settling of an ending leaves a sound build (R57, R60). -/
theorem Build.Sound.settled (h : x.Sound) (hs : x.settles = true) : x.settled.Sound := by
  have hplan : x.plan = [] := by
    simp only [Build.settles, Bool.and_eq_true, List.isEmpty_iff] at hs
    exact hs.2
  have hst : x.state = .opened ∨ x.state = .held := by
    simp only [Build.settles, inOpenOrHeld, Bool.and_eq_true, Bool.or_eq_true, beq_iff_eq] at hs
    exact hs.1
  have hswap := h.noSwap (by rcases hst with h | h <;> simp [h])
  cases hend : x.ending with
  | noEnding => rwa [Build.settled_noEnding hend]
  | cancel =>
    rw [Build.settled_cancel hs hend]
    split_ifs
    · exact Build.sound_of_noPlan hplan (fun l hl => absurd hl List.not_mem_nil) nofun fun hd => by
        rw [show x.cancelEmpty.swapDue = x.swapDue from rfl, hswap] at hd
        cases hd
    · exact h.move hplan hplan rfl nofun fun hd => by
        rw [show x.cancelClosing.swapDue = x.swapDue from rfl, hswap] at hd
        cases hd
  | release =>
    rw [Build.settled_release hs hend]
    exact h.move hplan hplan rfl nofun fun _ => rfl

theorem PlansSound.settleEnding (h : PlansSound s) (b : BuildId) : PlansSound (settleEnding b s) := by
  rw [settleEnding_eq]
  refine PlansSound.offerAll ?_ _
  by_cases hs : (s.build b).settles = true
  · have hst : (s.build b).state = .opened ∨ (s.build b).state = .held := by
      simp only [Build.settles, inOpenOrHeld, Bool.and_eq_true, Bool.or_eq_true, beq_iff_eq] at hs
      exact hs.1
    refine h.moveBuild ((h.build b).settled hs) (by rw [(s.build b).settled_kept.1]) ?_ ?_
    all_goals rcases hst with hst | hst <;> simp [hst]
  · rw [updateBuild_same (Build.settled_of_not (by simpa using hs))]
    exact h

theorem PlansSound.reportBuild (h : PlansSound s) (b : BuildId) : PlansSound (reportBuild b s) := h.offer _

theorem PlansSound.reportChange (h : PlansSound s) (b : BuildId) (before : BuildState) :
    PlansSound (reportChange b before s) := by
  rw [Machine.reportChange]
  split_ifs
  · exact h
  · exact h.reportBuild b

/-- A build in OPEN, or in CLOSING with that origin, enters HELD (R53, R141). -/
theorem PlansSound.hold (h : PlansSound s) {origin : HoldOrigin}
    (hst : (s.build b).state = .opened ∧ origin = .noOrigin ∨ (s.build b).state = .closing) :
    PlansSound (Machine.updateBuild b (Build.hold origin) s) := by
  have hs := h.build b
  have hswap := hs.noSwap (by rcases hst with ⟨hst, -⟩ | hst <;> simp [hst])
  refine h.moveBuild ⟨hs.accounts, fun _ => .inr rfl, fun ho => ⟨rfl, ?_⟩, fun hd => ?_⟩ (.refl _)
    (by rcases hst with ⟨hst, -⟩ | hst <;> simp [hst]) (by rcases hst with ⟨hst, -⟩ | hst <;> simp [hst])
  · rcases hst with ⟨-, horigin⟩ | hst
    · have hno : origin = .closing := ho
      rw [horigin] at hno
      cases hno
    · exact hs.noPlan (by simp [hst]) (by simp [hst])
  · have hd' : (s.build b).swapDue = true := hd
    rw [hswap] at hd'
    cases hd'

theorem PlansSound.enterHeld (h : PlansSound s) {origin : HoldOrigin}
    (hst : (s.build b).state = .opened ∧ origin = .noOrigin ∨ (s.build b).state = .closing) :
    PlansSound (enterHeld b origin s) := by
  rw [Machine.enterHeld]
  split_ifs
  · exact h
  · exact ((h.hold hst).withdrawBatch _ _).reportBuild _

/-! ### The case taken as placed (R93 to R95) -/

theorem PlansSound.applyBuilt (h : PlansSound s) (b : BuildId) (e : PlanEntry) (weight : Nat) :
    PlansSound (applyBuilt b e weight s) := h.updateSame _ ⟨rfl, rfl, rfl, rfl, rfl, rfl⟩

/-- OVERLOAD on a build that holds the PLACING entry: it is in OPEN or HELD (R95). -/
theorem PlansSound.applyAndHold (h : PlansSound s) (weight : Nat) (he : e ∈ (s.build b).plan) :
    PlansSound (applyAndHold b e weight s) := by
  have hb := h.applyBuilt b e weight
  have hbuild : ((Machine.applyBuilt b e weight s).build b).state = (s.build b).state := by
    rw [Machine.applyBuilt, updateBuild_build_same]
  rw [Machine.applyAndHold]
  split_ifs
  · have hr := hb.recordFault .overload .attn (some b) (some e.tag)
    rw [overload]
    simp only [recordFault_build, hbuild]
    split_ifs with hheld
    · exact hr
    · have hopen := ((h.build b).states (List.ne_nil_of_mem he)).resolve_right hheld
      exact (hr.hold (.inl ⟨by rw [recordFault_build, hbuild, hopen], rfl⟩)).withdrawMovable _ _
  · exact hb

/-- The PLACING entry stays through the batch of an OVERLOAD (R95). -/
theorem applyAndHold_mem (weight : Nat) (hd : ((s.build b).plan.map PlanEntry.tag).Nodup) (he : e ∈ (s.build b).plan)
    (hst : e.state = .placing) : e ∈ ((applyAndHold b e weight s).build b).plan := by
  obtain ⟨u, hbatch, hub, -, -, -⟩ := applyAndHold_removes b e weight s rfl
  have huplan : (u.build b).plan = (s.build b).plan := by
    rw [hub, Build.overloaded]
    split_ifs <;> rfl
  refine (hbatch.mem_plan e).mpr ⟨huplan ▸ he, fun r hr htag => ?_⟩
  obtain ⟨q, hq, rfl⟩ := List.mem_map.mp hr
  rw [overloadBatch] at hq
  split_ifs at hq
  · obtain ⟨hmem, hne⟩ := (mem_movable _ _).mp hq
    exact hne (eq_of_tag_eq hd he hmem htag ▸ hst)
  · exact absurd hq List.not_mem_nil

/-- A build in OPEN whose order is complete has nothing planned, and enters CLOSING (R52). -/
theorem PlansSound.completeIfDone (h : PlansSound s) (b : BuildId) : PlansSound (completeIfDone b s) := by
  rw [Machine.completeIfDone]
  split_ifs with hc
  · simp only [completes, Bool.and_eq_true, beq_iff_eq] at hc
    obtain ⟨⟨hopen, -⟩, hcomplete⟩ := hc
    have hs := h.build b
    have hplan := hs.accounts.plan_nil hcomplete
    refine h.moveBuild (hs.move hplan hplan rfl (fun ho => ?_) fun hd => ?_) (.refl _) (by simp [hopen]) (by simp [hopen])
    · exact absurd ho (hs.notClosingOrigin (by simp [hopen]))
    · have hst := hs.swapDue hd
      rw [hopen] at hst
      cases hst
  · exact h

theorem PlansSound.takePlaced (h : PlansSound s) (weight : Nat) (he : e ∈ (s.build b).plan) (hst : e.state = .placing) :
    PlansSound (takePlaced b e weight s) := by
  have ha := h.applyAndHold weight he
  have hmem := applyAndHold_mem weight (h.planTags b) he hst
  obtain ⟨hout, -⟩ := ha.without hmem place_counts rfl
  exact ((((hout.triggerSweep.leavePick _).completeIfDone b).recompute b).reportChange b _).settleEnding b

/-! ### Outcomes of a PLACE (R115 to R119, R126 to R130) -/

theorem PlansSound.reachQuickLimit (h : PlansSound s) (d : BuildId) (tag : Option Tag) :
    PlansSound (reachQuickLimit d tag s) := by
  have hleave (v : State) (hv : v = { s with cycles := v.cycles, station := v.station, pauseTimer := v.pauseTimer })
      (hst : v.station ≠ .awaitConfig) : PlansSound (Machine.leaveRun v) := by
    refine (PlansSound.of_same h ?_ ?_ ?_ ?_ fun ha => absurd ha hst).leaveRun
    all_goals rw [hv]
  rw [Machine.reachQuickLimit]
  split_ifs
  · exact (hleave { s with cycles := saturate255 s.cycles, station := .stalled } rfl nofun).recordFault _ _ _ _
  · exact (hleave { s with cycles := saturate255 s.cycles, station := .paused, pauseTimer := some s.timeBase } rfl
      nofun).recordFault _ _ _ _

theorem PlansSound.streakFailure (h : PlansSound s) (d : BuildId) (tag : Option Tag) :
    PlansSound (streakFailure d tag s) := by
  have hs : PlansSound { s with streak := min (s.streak + 1) 15 } := h.of_same rfl rfl rfl rfl id
  rw [Machine.streakFailure]
  split_ifs
  · exact hs.reachQuickLimit d tag
  · exact hs

theorem PlansSound.becomeUncertain (h : PlansSound s) (k : Hypotheses) (he : e ∈ (s.build b).plan) :
    PlansSound (becomeUncertain b e k s) := by
  by_cases hend : (s.build b).ending = .release
  · rw [Machine.becomeUncertain, if_pos hend]
    exact ((h.dropEntry he).recompute b).settleEnding b
  · rw [becomeUncertain_eq e k hend]
    refine h.updateSame _ ⟨?_, ?_, rfl, rfl, rfl, rfl⟩
    all_goals
      rw [Build.unsure, List.map_map]
      refine List.map_congr_left fun q _ => ?_
      rw [Function.comp_apply]
      split_ifs <;> rfl

theorem PlansSound.outcomePlaced (h : PlansSound s) (measured : Nat) (he : e ∈ (s.build b).plan) (hst : e.state = .placing) :
    PlansSound (outcomePlaced b e measured s) := by
  have hcount : PlansSound (if deviates s.own2.weightTol measured e.weight then Machine.count .weightDeviation s else s) := by
    split_ifs
    · exact h.count _
    · exact h
  have hmem : e ∈ ((if deviates s.own2.weightTol measured e.weight then Machine.count .weightDeviation s else s).build b).plan := by
    split_ifs
    · exact he
    · exact he
  have hplaced := hcount.takePlaced (if measured = 0 then e.weight else measured) hmem hst
  have hstep : PlansSound (stepScanTest b (greatestHeight (s.build b).built)
      (Machine.takePlaced b e (if measured = 0 then e.weight else measured)
        (if deviates s.own2.weightTol measured e.weight then Machine.count .weightDeviation s else s))) := by
    rw [stepScanTest_eq]
    refine hplaced.updateSame _ ?_
    rw [((Build.stepped_kept _ _ _).1)]
    exact ⟨rfl, rfl, rfl, rfl, rfl, rfl⟩
  exact hstep.of_same rfl rfl rfl rfl id

theorem PlansSound.takeOutcome (h : PlansSound s) (o : PlaceOutcome) (measured : Nat) (he : e ∈ (s.build b).plan)
    (hst : e.state = .placing) : PlansSound (takeOutcome o measured b e s) := by
  have hgone : PlansSound (outcomeNotPicked b e s) := (h.withdrawAlone _ he).settleEnding b
  cases o with
  | placed => exact h.outcomePlaced measured he hst
  | missed => exact hgone.streakFailure _ _
  | dropped => exact (h.becomeUncertain _ he).streakFailure _ _
  | refused => exact hgone.streakFailure _ _

theorem flightEntry_mem {f : InFlight} (h : flightEntry f s = some e) : e ∈ (s.build f.build).plan ∧ e.state = .placing := by
  rw [flightEntry] at h
  split at h
  · cases h
  · have hst := List.find?_some h
    simp only [Bool.and_eq_true, beq_iff_eq] at hst
    exact ⟨List.mem_of_find?_eq_some h, hst.2⟩

/-! ### Results of a scan (R139 to R143) -/

theorem PlansSound.setMap (h : PlansSound s) (b : BuildId) (m : Tiles Bool) : PlansSound (setMap b m s) :=
  h.updateSame _ ⟨rfl, rfl, rfl, rfl, rfl, rfl⟩

theorem PlansSound.scanMismatch (h : PlansSound s) (b : BuildId) (tag : Option Tag) : PlansSound (scanMismatch b tag s) := by
  have hr := h.recordFault .verifyMismatch .attn (some b) tag
  rw [Machine.scanMismatch]
  split
  · exact hr.enterHeld (.inl ⟨by rw [recordFault_build]; assumption, rfl⟩)
  · exact hr.enterHeld (.inr (by rw [recordFault_build]; assumption))
  · exact hr.reportBuild b
  all_goals exact hr

/-- A build leaves HELD for CLOSING where it came from there or has nothing left to place, or for OPEN (R141). -/
theorem PlansSound.rescanMatch (h : PlansSound s) (hheld : (s.build b).state = .held) : PlansSound (rescanMatch b s) := by
  have hs := h.build b
  have hleave : PlansSound (Machine.updateBuild b Build.leaveHeld s) := by
    refine h.moveBuild ?_ (by rw [Build.leaveHeld_kept]) (by simp [hheld]) (by simp [hheld])
    have hswap := hs.noSwap (by simp [hheld])
    rw [Build.leaveHeld]
    split_ifs with hcl
    · have hplan : (s.build b).plan = [] := hcl.elim (fun ho => (hs.origin ho).2) hs.accounts.plan_nil
      exact hs.move hplan hplan rfl nofun fun hd => absurd (show (s.build b).swapDue = true from hd) (by simp [hswap])
    · exact ⟨hs.accounts, fun _ => .inl rfl, nofun, fun hd => absurd (show (s.build b).swapDue = true from hd) (by simp [hswap])⟩
  rw [Machine.rescanMatch]
  refine PlansSound.reportBuild ?_ b
  split_ifs
  · exact hleave.triggerSweep
  · exact hleave

theorem PlansSound.finalMatch (h : PlansSound s) (hclosing : (s.build b).state = .closing) : PlansSound (finalMatch b s) := by
  have hp : PlansSound (palletDone b true s) := h.offer _
  have hb : (palletDone b true s).build b = s.build b := offer_build ..
  have hs := hp.build b
  have hplan := hs.noPlan (by simp [hb, hclosing]) (by simp [hb, hclosing])
  have hu : PlansSound (Machine.updateBuild b (fun x => { x with state := .swapping, swapDue := true }) (palletDone b true s)) :=
    hp.moveBuild (hs.move hplan hplan rfl
      (fun ho => absurd ho (hs.notClosingOrigin (by simp [hb, hclosing]))) fun _ => rfl) (.refl _)
      (by simp [hb, hclosing]) (by simp [hb, hclosing])
  exact hu.reportBuild b

theorem PlansSound.plainResult (h : PlansSound s) (b : BuildId) (k : ScanKind) (m : Tiles Nat) :
    PlansSound (plainResult b k m s) := by
  by_cases hst : (s.build b).state ≠ .empty ∧ (s.build b).state ≠ .swapping
  · obtain ⟨u, hu, -, hub, -⟩ := setMap_spec b (mismatches s.line.verifyTol (s.build b).built.height m) s
    have hus : PlansSound u := hu ▸ h.setMap _ _
    by_cases hmap : allMatch (mismatches s.line.verifyTol (s.build b).built.height m) = true
    · rw [plainResult_match b k hmap hst hu]
      split_ifs with hfinal hrescan
      · exact hus.finalMatch (by rw [hub]; exact hfinal.2)
      · exact hus.rescanMatch (by rw [hub]; exact hrescan.2.1)
      · exact hus
    · rw [plainResult_mismatch b k hmap hst hu]
      exact hus.scanMismatch _ _
  · have hno : ((s.build b).state == .empty || (s.build b).state == .swapping) = true := by
      rcases not_and_or.mp hst with h | h <;> simp [not_not.mp h]
    rw [Machine.plainResult]
    simp only [hno, if_true]
    exact h

theorem PlansSound.afterResolution (h : PlansSound s) (b : BuildId) (k : ScanKind) (clamped : Bool) :
    PlansSound (afterResolution b k clamped s) := by
  rw [Machine.afterResolution]
  split_ifs with hc
  · simp only [Bool.and_eq_true, beq_iff_eq] at hc
    exact h.rescanMatch hc.1.1.2
  · exact h

theorem PlansSound.uncertainResult (h : PlansSound s) (k : ScanKind) (m : Tiles Nat) (he : e ∈ (s.build b).plan)
    (hst : e.state = .placing) : PlansSound (uncertainResult b k e m s) := by
  have hmem (map : Tiles Bool) : e ∈ ((Machine.setMap b map s).build b).plan := by
    rw [Machine.setMap, updateBuild_build_same]
    exact he
  by_cases hplaced : e.uncertain = some .placedOrNot ∧
      allMatch (mismatches s.line.verifyTol (expectedPlaced (s.build b) e) m) = true
  · rw [uncertainResult_placed b k hplaced.1 hplaced.2]
    exact ((h.setMap b _).takePlaced _ (hmem _) hst).afterResolution _ _ _
  by_cases hmap : allMatch (mismatches s.line.verifyTol (s.build b).built.height m) = true
  · rw [uncertainResult_notPlaced b k hplaced hmap]
    exact (((h.setMap b _).withdrawAlone _ (hmem _)).settleEnding b).afterResolution _ _ _
  · rw [uncertainResult_neither b k hplaced hmap]
    exact (h.setMap b _).scanMismatch _ _

theorem PlansSound.scanResult (h : PlansSound s) (b : BuildId) (fl : ScanFlight) (m : Tiles Nat) :
    PlansSound (scanResult b fl m s) := by
  rw [Machine.scanResult]
  split_ifs with hrelease huncertain
  · exact h
  · split
    · rename_i he
      obtain ⟨hmem, hst⟩ := uncertainEntry_mem he
      exact h.uncertainResult _ _ hmem hst
    · exact h.plainResult _ _ _
  · exact h.plainResult _ _ _

theorem PlansSound.scanExpired (h : PlansSound s) (b : BuildId) (fl : ScanFlight) : PlansSound (scanExpired b fl s) := by
  have hr := h.recordFault .scanTimeout .attn (some b) ((uncertainEntry (s.build b)).map PlanEntry.tag)
  rw [Machine.scanExpired]
  split_ifs
  · exact h
  · split
    · exact hr.enterHeld (.inl ⟨by rw [recordFault_build]; assumption, rfl⟩)
    · exact hr.enterHeld (.inr (by rw [recordFault_build]; assumption))
    all_goals exact hr

end Sys2Proof.Machine
end

section
/-!
The demand accounts, the plan lists and the claims agree (O13), part 5: the arbiter, the completions and expiries of the
robot port, and the pick order list.
-/
namespace Sys2Proof.Machine

variable {b : BuildId} {s t u v w : State} {e : PlanEntry} {tag : Tag} {x y : Build} {f : InFlight}

/-! ### The arbiter (R109 to R112) -/

theorem PlansSound.setPhase (h : PlansSound s) (tag : Tag) (p : PickPhase) : PlansSound (setPhase tag p s) :=
  h.of_same rfl rfl rfl rfl id

/-- A request that is no SWAP binds no build (R107, R111, R112). -/
theorem PlansSound.sendRequest (h : PlansSound s) {k : OpKind} (hk : k ≠ .swap) (b : BuildId) (tag : Option Tag)
    (p : List Byte) : PlansSound (sendRequest k b tag p s) := by
  refine h.fly rfl rfl rfl rfl fun f hf hswap => ?_
  rw [sendRequest_inFlight] at hf
  rw [← Option.some.inj hf] at hswap
  exact absurd hswap hk

/-- A due swap goes in flight: its build is in SWAPPING, with no swap due any more (R111, R148). -/
theorem PlansSound.grantSwap (h : PlansSound s) (hport : s.inFlight = none) (hdue : (s.build b).swapDue = true) :
    PlansSound (grantSwap b s) := by
  have hs := h.build b
  have hswapping := hs.swapDue hdue
  have hu : PlansSound (Machine.updateBuild b (fun x => { x with swapDue := false, swapInFlight := true }) s) :=
    h.updateBuild ⟨hs.accounts, hs.states, hs.origin, nofun⟩ (.refl _) (fun _ => id) (.inl hport)
  refine hu.fly rfl rfl rfl rfl fun f hf _ _ => ?_
  rw [Machine.grantSwap, sendRequest_inFlight] at hf
  rw [← Option.some.inj hf, updateBuild_build_same]
  exact ⟨hswapping, rfl⟩

theorem PlansSound.grantScan (h : PlansSound s) (b : BuildId) (k : ScanKind) : PlansSound (grantScan b k s) :=
  (h.updateSame (Build.startScan k) ⟨rfl, rfl, rfl, rfl, rfl, rfl⟩).sendRequest (k := .scan) nofun _ _ _

theorem PlansSound.grantPlace (h : PlansSound s) (p : PickEntry) (m : EyeMatch) (e : PlanEntry) :
    PlansSound (grantPlace p m e s) := by
  have hplan : PlansSound (Machine.updateBuild p.build (fun x =>
      { x with plan := x.plan.map fun q => if q.tag == p.tag then { q with state := .placing } else q }) s) := by
    refine h.updateSame _ ⟨?_, ?_, rfl, rfl, rfl, rfl⟩
    all_goals
      rw [List.map_map]
      refine List.map_congr_left fun q _ => ?_
      rw [Function.comp_apply]
      split_ifs <;> rfl
  exact ((hplan.setPhase _ _).unregister _ _).sendRequest (k := .place) nofun _ _ _

theorem PlansSound.runArbiter (h : PlansSound s) : PlansSound (runArbiter s) := by
  rcases runArbiter_cases s with hrun | ⟨hport, ⟨b, k, -, hrun⟩ | ⟨b, hdue, hrun⟩ | ⟨p, m, e, -, -, hrun⟩⟩ <;> rw [hrun]
  · exact h
  · exact h.grantScan b k
  · refine h.grantSwap ?_ hdue
    simp only [portReady, Bool.and_eq_true, Option.isNone_iff_eq_none] at hport
    obtain ⟨⟨⟨hfree, -⟩, -⟩, -⟩ := hport
    exact hfree
  · exact h.grantPlace p m e

/-! ### The end of an operation (R113, R114, R122) -/

theorem PlansSound.freePort (h : PlansSound s) : PlansSound (freePort s) := h.fly rfl rfl rfl rfl nofun

theorem PlansSound.expireFlight (h : PlansSound s) (f : InFlight) : PlansSound (expireFlight f s) :=
  (PlansSound.of_same (t := runTo f.startedAt f.limitMs s) h rfl rfl rfl rfl id).freePort

theorem PlansSound.endScanFlight (h : PlansSound s) (b : BuildId) : PlansSound (endScanFlight b s) :=
  h.updateSame _ ⟨rfl, rfl, rfl, rfl, rfl, rfl⟩

theorem PlansSound.endSwapFlight (h : PlansSound s) (b : BuildId) : PlansSound (endSwapFlight b s) :=
  h.updateSame _ ⟨rfl, rfl, rfl, rfl, rfl, rfl⟩

theorem PlansSound.sweepIfStillOpen (h : PlansSound s) (b : BuildId) (before : BuildState) :
    PlansSound (sweepIfStillOpen b before s) := by
  rw [Machine.sweepIfStillOpen]
  split_ifs
  · exact h.triggerSweep
  · exact h

theorem PlansSound.receiverIdle (h : PlansSound s) : PlansSound (receiverIdle s) := h.of_same rfl rfl rfl rfl id
theorem PlansSound.linkError (h : PlansSound s) : PlansSound (linkError s) := h.count _

theorem PlansSound.onRecord (h : PlansSound s) (kind seq : Byte) (p : List Byte) (check : Byte) {act : State → State}
    (hact : ∀ u, PlansSound u → PlansSound (act u)) : PlansSound (onRecord kind seq p check act s) := by
  rw [Machine.onRecord]
  split_ifs
  · exact hact _ h.receiverIdle
  · exact h.receiverIdle.linkError

theorem PlansSound.takePlaceDone (h : PlansSound s) (f : InFlight) (o : PlaceOutcome) (measured : Nat) :
    PlansSound (takePlaceDone f o measured s) := by
  refine PlansSound.runArbiter ?_
  split_ifs
  · exact h.freePort
  · split
    · exact h.freePort
    · rename_i he
      obtain ⟨hmem, hst⟩ := flightEntry_mem he
      exact h.freePort.takeOutcome o measured hmem hst

theorem PlansSound.placeExpiry (h : PlansSound s) : PlansSound (placeExpiry s) := by
  rw [Machine.placeExpiry]
  split
  · exact h
  · rename_i f _
    refine PlansSound.runArbiter ?_
    split_ifs
    · exact h.expireFlight f
    · split
      · exact h.expireFlight f
      · rename_i he
        obtain ⟨hmem, -⟩ := flightEntry_mem he
        exact (((h.expireFlight f).becomeUncertain .placedOrNot hmem).recordFault _ _ _ _).streakFailure _ _

theorem PlansSound.takeScanData (h : PlansSound s) (f : InFlight) (measured : Tiles Nat) :
    PlansSound (takeScanData f measured s) := by
  have hend := h.freePort.endScanFlight f.build
  refine PlansSound.runArbiter (PlansSound.sweepIfStillOpen ?_ _ _)
  split_ifs
  · exact hend
  · split
    · exact hend
    · exact hend.scanResult _ _ _

theorem PlansSound.scanTimeout (h : PlansSound s) : PlansSound (scanTimeout s) := by
  rw [Machine.scanTimeout]
  split
  · exact h
  · rename_i f _
    have hend := (h.expireFlight f).endScanFlight f.build
    refine PlansSound.runArbiter (PlansSound.sweepIfStillOpen ?_ _ _)
    split_ifs
    · exact hend
    · split
      · exact hend
      · exact hend.scanExpired _ _

/-- A swap in flight ends without its mark: its build, in SWAPPING with nothing planned, goes to another state with its
order discarded (R149, R150, R153). -/
theorem PlansSound.endSwap (h : PlansSound s) (hf : s.inFlight = some f) (hk : f.kind = .swap) (hd : f.discard = false)
    {g : Build → Build} (hu : PlansSound u) (hub : u.build f.build = { s.build f.build with swapInFlight := false })
    (hport : u.inFlight = none) (hplan : ∀ y, (g y).plan = y.plan) (hlines : ∀ y, (g y).lines = [])
    (horigin : ∀ y, (g y).holdOrigin = .noOrigin) (hdue : ∀ y, (g y).swapDue = y.swapDue) :
    PlansSound (Machine.reportBuild f.build (Machine.updateBuild f.build g u)) := by
  obtain ⟨hst, hswap⟩ := h.swapping f hf hk hd
  have hempty : (u.build f.build).plan = [] := by
    rw [hub]
    exact (h.build f.build).noPlan (by simp [hst]) (by simp [hst])
  refine PlansSound.reportBuild (hu.updateBuild (Build.sound_of_noPlan ?_ ?_ ?_ ?_) ?_ ?_ (.inl hport)) _
  · rw [hplan, hempty]
  · rw [hlines]
    exact fun l hl => absurd hl List.not_mem_nil
  · rw [horigin]
    exact nofun
  · rw [hdue, hub, show (Build.swapDue { s.build f.build with swapInFlight := false }) = (s.build f.build).swapDue from rfl,
      hswap]
    exact nofun
  · rw [hplan]
  · intro _ hun
    rw [hub] at hun
    have hun' : (s.build f.build).state = .unused := hun
    rw [hst] at hun'
    cases hun'

theorem PlansSound.takeSwapDone (h : PlansSound s) (hf : s.inFlight = some f) (hk : f.kind = .swap) :
    PlansSound (takeSwapDone f s) := by
  have hend := h.freePort.endSwapFlight f.build
  refine PlansSound.runArbiter ?_
  split_ifs with hd
  · exact hend
  · refine h.endSwap (g := Build.exchanged) hf hk (by simpa using hd) hend ?_ ?_ (fun _ => rfl) (fun _ => rfl) (fun _ => rfl) fun _ => rfl
    · rw [Machine.endSwapFlight, updateBuild_build_same]
      rfl
    · rw [Machine.endSwapFlight, updateBuild_inFlight]
      rfl

theorem flightOf_cases {k : OpKind} (h : flightOf k s = some f) : s.inFlight = some f ∧ f.kind = k := by
  rw [flightOf] at h
  split at h
  · cases h
  · split_ifs at h with hk
    cases h
    exact ⟨by assumption, by simpa using hk⟩

theorem matchesFlight_cases {k : OpKind} {seq : Byte} (h : matchesFlight k seq s = some f) :
    s.inFlight = some f ∧ f.kind = k := by
  rw [matchesFlight] at h
  split at h
  · cases h
  · split_ifs at h with hk
    cases h
    simp only [Bool.and_eq_true, beq_iff_eq] at hk
    exact ⟨by assumption, hk.1⟩

theorem PlansSound.swapTimeout (h : PlansSound s) : PlansSound (swapTimeout s) := by
  rw [Machine.swapTimeout]
  split
  · exact h
  · rename_i f hfl
    obtain ⟨hf, hk⟩ := flightOf_cases hfl
    have hend := (h.expireFlight f).endSwapFlight f.build
    refine PlansSound.runArbiter ?_
    split_ifs with hd
    · exact hend
    · refine h.endSwap (g := Build.swapExpired) hf hk (by simpa using hd) (hend.recordFault _ _ _ _) ?_ ?_ (fun _ => rfl) (fun _ => rfl)
        (fun _ => rfl) fun _ => rfl
      · rw [recordFault_build, Machine.endSwapFlight, updateBuild_build_same]
        rfl
      · rw [recordFault_inFlight, Machine.endSwapFlight, updateBuild_inFlight]
        rfl

theorem PlansSound.placeDone (h : PlansSound s) (seq : Byte) (p : List Byte) (check : Byte) :
    PlansSound (placeDone seq p check s) := by
  refine h.onRecord _ _ _ _ fun u hu => ?_
  split
  · exact hu.takePlaceDone _ _ _
  · exact hu.linkError

theorem PlansSound.scanData (h : PlansSound s) (seq : Byte) (p : List Byte) (check : Byte) :
    PlansSound (scanData seq p check s) := by
  refine h.onRecord _ _ _ _ fun u hu => ?_
  split
  · exact hu.takeScanData _ _
  · exact hu.linkError

theorem PlansSound.swapDone (h : PlansSound s) (seq : Byte) (p : List Byte) (check : Byte) :
    PlansSound (swapDone seq p check s) := by
  refine h.onRecord _ _ _ _ fun u hu => ?_
  split
  · rename_i hfl
    obtain ⟨hf, hk⟩ := matchesFlight_cases hfl
    exact hu.takeSwapDone hf hk
  · exact hu.linkError

theorem PlansSound.robotState (h : PlansSound s) (seq : Byte) (p : List Byte) (check : Byte) :
    PlansSound (robotState seq p check s) := by
  refine h.onRecord _ _ _ _ fun u hu => ?_
  have hset : PlansSound { u with robotReady := byteAt p 0 != 0 } := hu.of_same rfl rfl rfl rfl id
  rw [takeRobotState]
  split_ifs
  · exact hset.runArbiter
  · exact hset

theorem PlansSound.interByteTimeout (h : PlansSound s) (got : List Byte) : PlansSound (interByteTimeout got s) := by
  have hgap : PlansSound (runGap got s) := h.of_same rfl rfl rfl rfl id
  rw [Machine.interByteTimeout]
  split_ifs
  · exact hgap.receiverIdle.linkError
  · exact h

theorem PlansSound.recordDiscarded (h : PlansSound s) (kind seq : Byte) (p : List Byte) (check : Byte) :
    PlansSound (recordDiscarded kind seq p check s) := by
  rw [Machine.recordDiscarded]
  split_ifs
  · exact h.receiverIdle.linkError
  · exact h

theorem PlansSound.recordAbandoned (h : PlansSound s) (kind seq len : Byte) :
    PlansSound (recordAbandoned kind seq len s) := by
  rw [Machine.recordAbandoned]
  split_ifs
  · exact h.receiverIdle.linkError
  · exact h

theorem PlansSound.pauseTimerExpiry (h : PlansSound s) : PlansSound (pauseTimerExpiry s) := by
  rw [Machine.pauseTimerExpiry]
  split
  · exact h
  · rename_i start _
    have hrun : PlansSound { runTo start (pauseMs s) s with station := .run, streak := 0, pauseTimer := none } :=
      h.of_same rfl rfl rfl rfl fun ha => nomatch ha
    split_ifs
    · exact hrun.triggerSweep.runArbiter
    · exact h

/-! ### The pick order list (R101 to R104) -/

theorem PlansSound.pickOpenPoint (h : PlansSound s) (tag : Tag) : PlansSound (pickOpenPoint tag s) := by
  have hopen : PlansSound { Machine.unregister .pickOpen tag s with
      pick := s.pick.map fun p => if p.tag == tag then { p with phase := p.phase.openIt } else p } :=
    h.of_same rfl rfl rfl rfl id
  rw [Machine.pickOpenPoint]
  split_ifs
  · exact hopen.runArbiter
  · exact h

theorem PlansSound.arrive (h : PlansSound s) (p : PickEntry) (c : Count) : PlansSound (arrive p c s) := by
  have hphase (m : EyeMatch) : PlansSound (Machine.setPhase p.tag (.arrived m) (Machine.unregister .eyeWindowEnd p.tag s)) :=
    (h.unregister _ _).setPhase _ _
  rw [Machine.arrive]
  split_ifs
  · exact ((hphase _).register _ _ _).runArbiter
  · exact ((hphase _).register _ _ _).register _ _ _

theorem PlansSound.eyeCapture (h : PlansSound s) : PlansSound (eyeCapture s) := by
  have hlatch : PlansSound { s with eyeLatch := none } := h.of_same rfl rfl rfl rfl id
  rw [Machine.eyeCapture]
  split
  · exact h
  · split_ifs
    · simp only
      split
      · exact hlatch
      · exact hlatch.arrive _ _
    · exact hlatch

theorem PlansSound.eyeEdge (h : PlansSound s) : PlansSound (eyeEdge s) := by
  rw [Machine.eyeEdge]
  split
  · exact h.of_same rfl rfl rfl rfl id
  · exact h.count _

end Sys2Proof.Machine
end

section
/-!
The demand accounts, the plan lists and the claims agree (O13), part 6: the commands of the depot line, READY, the line
clear, and every step.
-/
namespace Sys2Proof.Machine

variable {b : BuildId} {s t u : State} {e : PlanEntry} {x : Build}

/-! ### Frames handed on (R5, R43, R164) -/

theorem PlansSound.answer (h : PlansSound s) (code : Nat) (b : Option BuildId) (r : ReplyCode) :
    PlansSound (answer code b r s) := h.offer _

theorem PlansSound.handOn (h : PlansSound s) (isMine : Frame → Bool) {act : Frame → State → State}
    (hact : ∀ f u, PlansSound u → PlansSound (act f u)) : PlansSound (handOn isMine act s) := by
  rw [Machine.handOn]
  split
  · exact h
  · split_ifs
    · exact hact _ _ (h.of_same rfl rfl rfl rfl id)
    · exact h

theorem PlansSound.onCommand (h : PlansSound s) (f : Frame) {act : State → State}
    (hact : ∀ u, PlansSound u → PlansSound (act u)) : PlansSound (onCommand f act s) := by
  rw [Machine.onCommand]
  split_ifs
  · exact h
  · exact hact _ (h.of_same rfl rfl rfl rfl id)

theorem PlansSound.onBuildCommand (h : PlansSound s) (code : Nat) (f : Frame) {act : BuildId → State → State}
    (hact : ∀ b u, PlansSound u → PlansSound (act b u)) : PlansSound (onBuildCommand code f act s) := by
  rw [Machine.onBuildCommand]
  split_ifs
  · exact h
  · exact h.answer _ _ _
  · split
    · exact h.answer _ _ _
    · split_ifs
      · exact h.answer _ _ _
      · exact hact _ _ h

theorem PlansSound.buildCommand (h : PlansSound s) (code : Nat) {act : Frame → BuildId → State → State}
    (hact : ∀ f b u, PlansSound u → PlansSound (act f b u)) : PlansSound (buildCommand code act s) :=
  h.handOn _ fun f _ hu => hu.onCommand f fun _ hv => hv.onBuildCommand code f (hact f)

/-! ### The build commands (R44 to R60) -/

/-- A build in EMPTY or LOADING takes a header: nothing is planned on it (R44). -/
theorem PlansSound.load (h : PlansSound s) (o : OrderHeader) (hst : (s.build b).state = .empty ∨ (s.build b).state = .loading) :
    PlansSound (Machine.updateBuild b (Build.load o) s) := by
  have hs := h.build b
  have hplan : (s.build b).plan = [] := hs.noPlan (by rcases hst with h | h <;> simp [h]) (by rcases hst with h | h <;> simp [h])
  have hswap := hs.noSwap (by rcases hst with h | h <;> simp [h])
  have horigin := hs.notClosingOrigin (by rcases hst with h | h <;> simp [h])
  refine h.moveBuild (Build.sound_of_noPlan hplan (fun l hl => absurd hl List.not_mem_nil) (fun ho => absurd ho horigin)
    fun hd => ?_) (.refl _) (by rcases hst with h | h <;> simp [h]) (by rcases hst with h | h <;> simp [h])
  rw [show (Build.load o (s.build b)).swapDue = (s.build b).swapDue from rfl, hswap] at hd
  cases hd

theorem PlansSound.orderOpenOn (h : PlansSound s) (f : Frame) (b : BuildId) : PlansSound (orderOpenOn f b s) := by
  rw [Machine.orderOpenOn]
  split
  · split_ifs
    · exact ((h.load _ (.inl (by assumption))).answer _ _ _).reportBuild b
    · exact h.answer _ _ _
  · split_ifs
    · exact (h.load _ (.inr (by assumption))).answer _ _ _
    · exact h.answer _ _ _
  · exact h
  all_goals exact h.answer _ _ _

/-- The lines of a frame come with nothing planned (R47, R48). -/
theorem orderLinesOf_fresh (p : List Byte) : ∀ l ∈ orderLinesOf p, l.planned = 0 ∧ l.planned + l.placed ≤ l.ordered := by
  intro l hl
  obtain ⟨k, -, rfl⟩ := List.mem_map.mp hl
  exact ⟨rfl, Nat.zero_le _⟩

/-- A build in LOADING takes lines, and opens with nothing planned at the last one (R47). -/
theorem PlansSound.addLines (h : PlansSound s) (p : List Byte) (hst : (s.build b).state = .loading) :
    PlansSound (Machine.updateBuild b (Build.addLines (orderLinesOf p)) s) := by
  have hs := h.build b
  have hplan : (s.build b).plan = [] := hs.noPlan (by simp [hst]) (by simp [hst])
  refine h.moveBuild (Build.sound_of_noPlan hplan (fun l hl => ?_) (fun ho => ?_) fun hd => ?_) (.refl _) (by simp [hst])
    (by simp [hst])
  · exact (List.mem_append.mp hl).elim (hs.accounts.nil hplan l) (orderLinesOf_fresh p l)
  · exact absurd ho (hs.notClosingOrigin (by simp [hst]))
  · rw [show (Build.addLines (orderLinesOf p) (s.build b)).swapDue = (s.build b).swapDue from rfl,
      hs.noSwap (by simp [hst])] at hd
    cases hd

theorem PlansSound.orderLinesOn (h : PlansSound s) (f : Frame) (b : BuildId) : PlansSound (orderLinesOn f b s) := by
  rw [Machine.orderLinesOn]
  split
  · split
    · exact h.answer _ _ _
    · have hadd := (h.addLines f.payload (by assumption)).answer 2 (some b) .accepted
      simp only
      split_ifs
      · exact (hadd.reportBuild b).triggerSweep.runArbiter
      · exact hadd
  · exact h.answer _ _ _
  · exact h
  all_goals exact h.answer _ _ _

theorem PlansSound.runIfDue (h : PlansSound s) (b : BuildId) : PlansSound (runIfDue b s) := by
  rw [Machine.runIfDue]
  split
  · exact h.runArbiter
  · exact h.runArbiter
  all_goals exact h

theorem PlansSound.acceptCancel (h : PlansSound s) (b : BuildId) : PlansSound (acceptCancel b s) := by
  have hend : PlansSound (Machine.updateBuild b (fun x => { x with ending := .cancel }) s) :=
    h.updateSame _ ⟨rfl, rfl, rfl, rfl, rfl, rfl⟩
  exact (((hend.answer 3 (some b) .accepted).withdrawBatch b .cancelled).settleEnding b).runIfDue b

/-- A cancel in LOADING discards the order (R55). -/
theorem PlansSound.unload (h : PlansSound s) (hst : (s.build b).state = .loading) :
    PlansSound (Machine.updateBuild b Build.unload s) := by
  have hs := h.build b
  have hplan : (s.build b).plan = [] := hs.noPlan (by simp [hst]) (by simp [hst])
  refine h.moveBuild (Build.sound_of_noPlan hplan (fun l hl => absurd hl List.not_mem_nil) (fun ho => ?_) fun hd => ?_)
    (.refl _) (by simp [hst]) (by simp [hst])
  · exact absurd ho (hs.notClosingOrigin (by simp [hst]))
  · rw [show (s.build b).unload.swapDue = (s.build b).swapDue from rfl, hs.noSwap (by simp [hst])] at hd
    cases hd

theorem PlansSound.orderCancelOn (h : PlansSound s) (f : Frame) (b : BuildId) : PlansSound (orderCancelOn f b s) := by
  rw [Machine.orderCancelOn]
  split
  · exact ((h.unload (by assumption)).answer _ _ _).reportBuild b
  · split_ifs
    · exact h.acceptCancel b
    · exact h.answer _ _ _
  · split_ifs
    · exact h.answer _ _ _
    · exact h.acceptCancel b
    · exact h.answer _ _ _
  · exact h.answer _ _ _
  · exact h
  all_goals exact h.answer _ _ _

theorem PlansSound.makeScanDue (h : PlansSound s) (b : BuildId) (k : ScanKind) :
    PlansSound (Machine.updateBuild b (Build.makeScanDue k) s) := by
  refine h.updateSame _ ?_
  rw [Build.makeScanDue]
  exact ⟨rfl, rfl, rfl, rfl, rfl, rfl⟩

theorem PlansSound.buildResumeOn (h : PlansSound s) (f : Frame) (b : BuildId) : PlansSound (buildResumeOn f b s) := by
  rw [Machine.buildResumeOn]
  split
  · split_ifs
    · exact h.answer _ _ _
    · exact h.answer _ _ _
    · exact ((h.answer _ _ _).makeScanDue b _).runArbiter
  · exact h.answer _ _ _
  · exact h
  all_goals exact h.answer _ _ _

/-- A release removes each entry at most once: what is not PLACING, and what is PLACING with no PLACE in flight (R59). -/
theorem PlansSound.releaseEntries (h : PlansSound s) (b : BuildId) : PlansSound (releaseEntries b s) := by
  have hmovable : (movable (s.build b)).Sublist (s.build b).plan := List.filter_sublist
  have hstranded : (strandedEntries b s).Sublist (s.build b).plan := List.filter_sublist
  have hd := h.planTags b
  refine h.removes releaseEntries_removes (fun r hr => ?_) ?_
  · rcases List.mem_append.mp hr with hr | hr
    · obtain ⟨e, he, rfl⟩ := List.mem_map.mp hr
      exact hmovable.subset he
    · obtain ⟨e, he, rfl⟩ := List.mem_map.mp hr
      exact hstranded.subset he
  · rw [List.map_append, List.map_map, List.map_map]
    refine List.nodup_append.mpr ⟨hd.sublist (hmovable.map _), hd.sublist (hstranded.map _), fun k hk m hm hkm => ?_⟩
    obtain ⟨e, he, rfl⟩ := List.mem_map.mp hk
    obtain ⟨q, hq, hqm⟩ := List.mem_map.mp hm
    have heq : e = q := eq_of_tag_eq hd (hmovable.subset he) (hstranded.subset hq) (hkm.trans hqm.symm)
    have hplacing := (List.mem_filter.mp hq).2
    simp only [Bool.and_eq_true, beq_iff_eq] at hplacing
    exact ((mem_movable _ _).mp he).2 (heq ▸ hplacing.1)

theorem PlansSound.acceptRelease (h : PlansSound s) (b : BuildId) : PlansSound (acceptRelease b s) := by
  have hbegin : PlansSound (Machine.updateBuild b Build.beginRelease s) :=
    h.updateSame _ ⟨rfl, rfl, rfl, rfl, rfl, rfl⟩
  exact (((hbegin.answer 5 (some b) .accepted).releaseEntries b).settleEnding b).runIfDue b

theorem PlansSound.buildReleaseOn (h : PlansSound s) (f : Frame) (b : BuildId) : PlansSound (buildReleaseOn f b s) := by
  rw [Machine.buildReleaseOn]
  split
  · split_ifs
    · exact h.answer _ _ _
    · exact h.acceptRelease b
  · split_ifs
    · exact h.answer _ _ _
    · exact h.acceptRelease b
  · exact h.answer _ _ _
  · exact h
  all_goals exact h.answer _ _ _

/-! ### Queries (R168, R171) -/

theorem PlansSound.answerStatus (h : PlansSound s) (clearing : Bool) : PlansSound (answerStatus clearing s) := by
  have hoffers := (h.offer (.status1 (status1Of s))).offer (.status2 s.counters)
  rw [Machine.answerStatus]
  split_ifs
  · exact hoffers.of_same rfl rfl rfl rfl id
  · exact hoffers

theorem PlansSound.answerFault (h : PlansSound s) (clearing : Bool) : PlansSound (answerFault clearing s) := by
  have hoffer := h.offer (.faultReport s.fault)
  rw [Machine.answerFault]
  split_ifs
  · exact hoffer.of_same rfl rfl rfl rfl id
  · exact hoffer

/-! ### READY (R157 to R161) -/

/-- A position that waits for READY enters EMPTY, or stays UNUSED (R41, R161). -/
theorem PlansSound.atReady (h : PlansSound s) (credits : Nat) (hst : s.station ≠ .awaitConfig)
    (hun : (s.build b).state = .unused) : PlansSound (Machine.updateBuild b (Build.atReady credits) s) := by
  have hs := h.build b
  have hplan : (s.build b).plan = [] := hs.noPlan (by simp [hun]) (by simp [hun])
  have horigin := hs.notClosingOrigin (by simp [hun])
  have hswap := hs.noSwap (by simp [hun])
  have hsound : (Build.atReady credits (s.build b)).Sound := by
    rw [Build.atReady]
    split_ifs
    · exact hs.move hplan hplan rfl (fun ho => absurd ho horigin) fun hd => nomatch hswap.symm.trans hd
    · exact hs
  have htags : (Build.atReady credits (s.build b)).plan = (s.build b).plan := by
    rw [Build.atReady]
    split_ifs <;> rfl
  exact h.updateBuild hsound (by rw [htags]) (fun ha => absurd ha hst) (.inr fun hswapping => by simp [hun] at hswapping)

theorem PlansSound.readyIfComplete (h : PlansSound s) (hst : s.station = .awaitConfig) : PlansSound (readyIfComplete s) := by
  have hready : PlansSound { Machine.offer (.ready (s.credits .A) (s.credits .B)) s with
      station := .run, streak := 0, cycles := 0 } :=
    (h.offer (TxBody.ready (s.credits .A) (s.credits .B))).of_same rfl rfl rfl rfl fun ha => nomatch ha
  have hun (b : BuildId) : (State.build { Machine.offer (.ready (s.credits .A) (s.credits .B)) s with
      station := .run, streak := 0, cycles := 0 } b).state = .unused := by
    rw [← h.waiting hst b, ← offer_build s (TxBody.ready (s.credits .A) (s.credits .B))]
    exact congrArg Build.state (build_congr rfl rfl b)
  have hreport {v : State} (hv : PlansSound v) (b : BuildId) : PlansSound (reportReady b v) := by
    rw [reportReady]
    split_ifs
    · exact hv.reportBuild b
    · exact hv
  rw [Machine.readyIfComplete]
  split_ifs
  · refine hreport (hreport ((hready.atReady _ nofun (hun .A)).atReady _ ?_ ?_) .A) .B
    · rw [updateBuild_station]
      exact nofun
    · rw [updateBuild_build_other _ _ _ _ (show BuildId.B ≠ .A from nofun)]
      exact hun .B
  · exact h

/-- A setup frame writes its own values, which the plans do not read. -/
theorem PlansSound.onSetup (h : PlansSound s) (code : Nat) (ok : Bool) {take : State → State}
    (htake : PlansSound (take s)) (hst : (take s).station = s.station) : PlansSound (onSetup code ok take s) := by
  rw [Machine.onSetup]
  split
  · exact h
  · rename_i hawait
    split_ifs
    · refine (htake.offer _).readyIfComplete ?_
      rw [offer_station, hst, hawait]
    · exact h.offer _
  all_goals exact h.offer _

/-! ### The line clear (R61, R165) -/

theorem Build.cleared_sound (x : Build) : x.cleared.Sound :=
  Build.sound_of_noPlan rfl (fun _ hl => absurd hl List.not_mem_nil) nofun nofun

theorem stationAfterClear_waiting {st : StationState} (h : stationAfterClear st = .awaitConfig) : st = .awaitConfig := by
  cases st
  case awaitConfig => rfl
  all_goals cases h

/-- The line clear leaves nothing planned and nothing tracked, and marks the operation in flight (R61, R122, R165). -/
theorem PlansSound.clearBlocks (h : PlansSound s) : PlansSound (clearBlocks s) := by
  have hb (c : BuildId) : (Machine.clearBlocks s).build c = (s.build c).cleared := by cases c <;> rfl
  refine ⟨fun c => hb c ▸ (s.build c).cleared_sound.accounts, List.nodup_nil, List.nodup_nil,
    fun r hr => absurd hr List.not_mem_nil, fun c => hb c ▸ (s.build c).cleared_sound.states,
    fun c => hb c ▸ (s.build c).cleared_sound.origin, fun c => hb c ▸ (s.build c).cleared_sound.swapDue,
    fun f hf _ hd => ?_, fun ha c => ?_⟩
  · obtain ⟨g, -, rfl⟩ := Option.map_eq_some_iff.mp hf
    cases hd
  · rw [hb]
    show clearedState (s.build c) = .unused
    rw [clearedState, h.waiting (stationAfterClear_waiting ha) c]

theorem PlansSound.lineClear (h : PlansSound s) : PlansSound (lineClear s) :=
  (((h.clearBlocks.answer _ _ _).reportChange _ _).reportChange _ _).runArbiter

/-! ### Every command, and every step -/

theorem PlansSound.showBeacons (h : PlansSound s) : PlansSound (showBeacons s) := h.of_same rfl rfl rfl rfl id

/-- Every command but a start keeps the plans sound (R48, R82). -/
theorem exec_plansSound (c : Instr) (hr : restarts c = false) (hs : PlansSound s) (h : exec c s = .next t) :
    PlansSound t := by
  cases c
  case powerOn => cases hr
  case reset => cases hr
  all_goals
    injection h with h
    subst h
    refine PlansSound.showBeacons ?_
  case encoderPulse => exact hs.of_same rfl rfl rfl rfl id
  case sendDeadline tag =>
    show PlansSound (sendDeadline tag s)
    rw [sendDeadline]
    split_ifs
    · exact hs.takeDeadline tag
    · exact hs
  case closePoint tag => exact hs.closePoint tag
  case eyeWindowEnd tag =>
    show PlansSound (eyeWindowEnd tag s)
    rw [eyeWindowEnd]
    split_ifs
    · exact ((hs.unregister _ _).count _).giveUp _ _
    · exact hs
  case pickOpenPoint tag => exact hs.pickOpenPoint tag
  case pickClosePoint tag =>
    show PlansSound (pickClosePoint tag s)
    rw [pickClosePoint]
    split_ifs
    · exact ((hs.unregister _ _).count _).giveUp _ _
    · exact hs
  case eyeEdge => exact hs.eyeEdge
  case eyeCapture => exact hs.eyeCapture
  case frameReception f own => exact hs.frameReception f own
  case caseNotice =>
    refine hs.handOn _ fun f u hu => ?_
    split_ifs
    · exact hu.takeNotice _
    · exact hu
  case claim => exact hs.handOn _ fun f u hu => hu.hearClaim _ _
  case miss => exact hs.handOn _ fun _ _ hu => hu
  case orderOpen => exact hs.buildCommand _ fun f b _ hu => hu.orderOpenOn f b
  case orderLines => exact hs.buildCommand _ fun f b _ hu => hu.orderLinesOn f b
  case orderCancel => exact hs.buildCommand _ fun f b _ hu => hu.orderCancelOn f b
  case buildResume => exact hs.buildCommand _ fun f b _ hu => hu.buildResumeOn f b
  case buildRelease => exact hs.buildCommand _ fun f b _ hu => hu.buildReleaseOn f b
  case clearPrepare =>
    refine hs.handOn _ fun f _ hu => hu.onCommand f fun v hv => ?_
    have hpair : PlansSound { v with pairing := some (wordAt f.payload 0) } := hv.of_same rfl rfl rfl rfl id
    split_ifs
    · exact hv.answer _ _ _
    · exact hpair.answer _ _ _
  case clear =>
    refine hs.handOn _ fun f _ hu => hu.onCommand f fun v hv => ?_
    split_ifs
    · exact hv.answer _ _ _
    · exact hv.lineClear
    · exact hv.answer _ _ _
  case statusQuery => exact hs.handOn _ fun f _ hu => hu.onCommand f fun _ hv => hv.answerStatus _
  case faultQuery => exact hs.handOn _ fun f _ hu => hu.onCommand f fun _ hv => hv.answerFault _
  case rollCall =>
    refine hs.handOn _ fun f u hu => ?_
    split_ifs
    · exact hu.offer _
    · exact hu
  case lineSetup =>
    exact hs.handOn _ fun f u hu => hu.onSetup _ _ (hu.of_same rfl rfl rfl rfl id) rfl
  case stationSetup1 =>
    refine hs.handOn _ fun f u hu => ?_
    simp only
    split_ifs
    · exact hu.onSetup _ _ (hu.of_same rfl rfl rfl rfl id) rfl
    · exact hu
  case stationSetup2 =>
    refine hs.handOn _ fun f u hu => ?_
    simp only
    split_ifs
    · exact hu.onSetup _ _ (hu.of_same rfl rfl rfl rfl id) rfl
    · exact hu
  case arbitration won => exact hs.arbitration won
  case transmissionComplete => exact hs.transmissionComplete
  case transmissionFailure => exact hs.transmissionFailure
  case placeDone n p c => exact hs.placeDone n p c
  case scanData n p c => exact hs.scanData n p c
  case swapDone n p c => exact hs.swapDone n p c
  case robotState n p c => exact hs.robotState n p c
  case interByteTimeout got => exact hs.interByteTimeout got
  case placeExpiry => exact hs.placeExpiry
  case scanTimeout => exact hs.scanTimeout
  case swapTimeout => exact hs.swapTimeout
  case pauseTimerExpiry => exact hs.pauseTimerExpiry
  case sweepOffer => exact hs.sweepOffer
  case runBeaconBlink =>
    show PlansSound (runBeaconBlink s)
    rw [runBeaconBlink]
    split_ifs
    · exact hs.of_same rfl rfl rfl rfl id
    · exact hs
  case recordDiscarded k n p c => exact hs.recordDiscarded k n p c
  case recordAbandoned k n l => exact hs.recordAbandoned k n l
  case replyReportHelloReady => exact hs.handOn _ fun _ _ hu => hu

theorem startUp_plansSound (straps : BitVec 4) (s : State) : PlansSound (startUp straps s) := by
  rcases startUp_cases straps s with h | h <;> rw [h] <;> exact plansSound_of_fresh (fun b => by cases b <;> rfl) rfl rfl

end Sys2Proof.Machine

open Sys2Proof Sys2Proof.Machine

/-- Settles O13: every operation keeps the laws of each build, adds a tag to one plan list alone and only where it is
planned nowhere, and binds a build to a swap alone. -/
theorem stepKeepsPlansSound : Obligations.StepKeepsPlansSound := by
  intro s t hs h
  rcases step_cases s with ⟨c, rest, -, hc⟩ | ⟨-, hi⟩
  · rw [hc] at h
    have hrest : PlansSound { s with pending := rest } := hs.of_same rfl rfl rfl rfl id
    by_cases hr : restarts c = true
    · obtain ⟨straps, he⟩ := exec_restarts hr { s with pending := rest }
      rw [he] at h
      cases h
      exact (startUp_plansSound straps _).showBeacons
    · exact exec_plansSound c (by simpa using hr) hrest h
  · rw [hi] at h
    cases h
    rw [idle_frame]
    exact hs.of_same rfl rfl rfl rfl id
end
